-- ==== Sys2Proof/Word.lean ====
section
/-! DEFINITION. The unit of both streams and of every pin register: one byte (R9, R50). -/

namespace Sys2Proof

/-- One byte: 8 bits, bit 0 the least significant (R9). Both streams are sequences of bytes (R50). -/
abbrev Byte := BitVec 8

end Sys2Proof
end

