-- ==== Sys2Proof/Config.lean ====
section
/-! DEFINITION. The parameters of the block (R6, R40, R41) and the free answers of its transport (R58). -/

namespace Sys2Proof

/-- `CAP`, the capability descriptor of the attached chip family (R40): three flags, fixed at construction. -/
structure Capabilities where
  hasClockDivideBy5      : Bool
  hasThreePhaseClocking  : Bool
  hasDriveOn0TristateOn1 : Bool
deriving DecidableEq, Repr

/-- The parameters of R6 that a model may take as an argument. They are fixed when an instance is constructed and no
operation writes them, so a statement about every state holds for every value of every one of them. -/
structure Params where
  /-- `CAP` (R40), OPEN. -/
  cap            : Capabilities
  /-- `SYNC_POLL_LIMIT` (R178), OPEN, at least 1. -/
  syncPollLimit  : Nat
  /-- `HOLD_N` (R189), at least 1, by default 4. -/
  holdN          : Nat
  /-- `SCL_BIT`, `SDA_OUT_BIT`, `SDA_IN_BIT` (R185): bits of bank `LOW`, by default 0, 1, 2. -/
  sclBit         : Fin 8
  sdaOutBit      : Fin 8
  sdaInBit       : Fin 8
  /-- `SK_BIT`, `DO_BIT`, `DI_BIT` (R215): bits of bank `LOW`, by default 0, 1, 2. -/
  skBit          : Fin 8
  doBit          : Fin 8
  diBit          : Fin 8
deriving DecidableEq, Repr

/-- The constraints the spec puts on the parameters (R178, R189). -/
def Params.wf (p : Params) : Bool :=
  1 ≤ p.syncPollLimit && 1 ≤ p.holdN

namespace Config

/-- `MAX_LEN` (R6, R121): the largest byte count of one byte-oriented command. -/
abbrev maxLen : Nat := 65536

/-- `MAX_BITS` (R6, R122): the largest bit count of one bit-oriented command. -/
abbrev maxBits : Nat := 8

/-- `BAD_CMD` (R6, R176): the first byte of the downstream engine's bad-command reply. -/
def badCmd : Byte := 0xFA#8

/-- `SYNC_BYTE_1` and `SYNC_BYTE_2` (R176): the two probe bytes. -/
def syncByte1 : Byte := 0xAA#8
def syncByte2 : Byte := 0xAB#8

/-- `RESET_VALUE` and `RESET_DIRECTION` (R24). -/
def resetValue : Byte := 0x00#8
def resetDirection : Byte := 0x00#8

/-- `OP_BYTES_OUT_MSB_RISE` (R149). PRESUMED (log entry 7): from general knowledge, through the spec's D8. -/
def opBytesOutMsbRise : Byte := 0x10#8

/-- `OP_BYTES_INOUT_MSB_RISE_IN_FALL_OUT` (R150). PRESUMED (log entry 7). -/
def opBytesInOutMsbRiseInFallOut : Byte := 0x31#8

/-- `OP_BYTES_INOUT_MSB_FALL_IN_RISE_OUT` (R151). PRESUMED (log entry 7). -/
def opBytesInOutMsbFallInRiseOut : Byte := 0x34#8

/-- The parameters of the instance that `State.reset` is. `HOLD_N` and the pin bits are the defaults of R6. DESIGN CHOICE
(log entry 5): the OPEN ones, three capabilities present and a limit of 3 polls, as in 95_test_vectors.md. No statement rests on these values: statements hold for every `Params`. -/
def params : Params where
  cap := { hasClockDivideBy5 := true, hasThreePhaseClocking := true, hasDriveOn0TristateOn1 := true }
  syncPollLimit := 3
  holdN := 4
  sclBit := 0
  sdaOutBit := 1
  sdaInBit := 2
  skBit := 0
  doBit := 1
  diBit := 2

end Config

/-- What the transport answers to one call (R44, R58): whether the call succeeded, the count it reports (`T.write`: bytes
written; `T.bytes_available`: bytes waiting) and the bytes it returns (`T.read`). Each call looks at its own part only. -/
structure Answer where
  ok    : Bool
  count : Nat
  bytes : List Byte
deriving DecidableEq, Repr, Inhabited

/-- The free answers of the transport (R58, log entry 3): what a call is answered once the scripted answers in `State` are
used up. It has no body: no proof can know any value of it. -/
opaque Config.freeAnswer : Nat → Answer

end Sys2Proof
end

