-- ==== Sys2Proof/Syntax.lean ====
section
/-! DEFINITION. The wire commands of the block, one constructor per row of spec/opcode_table.json (R83). -/

namespace Sys2Proof

/-- The wire commands (R83) with the operands of their logical operations (R89). A payload and a bit count are kept as the
caller gives them, in range or not: a value out of range is refused by the encoder with `EncodingError` (R121, R122). -/
inductive Instr where
  /-- `BYTES_OUT_MSB_FALL`, 0x11, `BytesOutMsbFall(payload)` (R124). -/
  | bytesOutMsbFall (payload : List Byte)
  /-- `BITS_OUT_MSB_FALL`, 0x13, `BitsOutMsbFall(n, data)` (R126). -/
  | bitsOutMsbFall (n : Nat) (data : Byte)
  /-- `BITS_IN_MSB_RISE`, 0x22, `BitsInMsbRise(n)` (R128). -/
  | bitsInMsbRise (n : Nat)
  /-- `SET_BITS_LOW`, 0x80, `SetDataBitsLowByte(value, direction)` (R130). -/
  | setBitsLow (value direction : Byte)
  /-- `SET_BITS_HIGH`, 0x82, `SetDataBitsHighByte(value, direction)` (R132). -/
  | setBitsHigh (value direction : Byte)
  /-- `READ_BITS_LOW`, 0x81, `ReadDataBitsLowByte()` (R134). -/
  | readBitsLow
  /-- `READ_BITS_HIGH`, 0x83, `ReadDataBitsHighByte()` (R136). -/
  | readBitsHigh
  /-- `SET_CLK_DIV`, 0x86, `SetClockDivisor(divisor)` (R140). -/
  | setClkDiv (divisor : BitVec 16)
  /-- `SEND_IMMEDIATE`, 0x87, `SendImmediate()` (R138). -/
  | sendImmediate
  /-- `DIS_CLK_DIV5`, 0x8A, `DisableClockDivideBy5()` (R144). -/
  | disClkDiv5
  /-- `EN_3PHASE`, 0x8C, `EnableThreePhaseClocking()` (R146). -/
  | en3Phase
  /-- `LOOPBACK_OFF`, 0x85, `DisconnectLoopback()` (R142). -/
  | loopbackOff
  /-- `SET_DRIVE_ZERO`, 0x9E, `SetDriveZero(lowMask, highMask)` (R148). -/
  | setDriveZero (lowMask highMask : Byte)
  /-- `BYTES_OUT_MSB_RISE`, 0x10, `BytesOutMsbRise(payload)` (R149). -/
  | bytesOutMsbRise (payload : List Byte)
  /-- `BYTES_INOUT_MSB_RISE_IN_FALL_OUT`, 0x31, `BytesInOutMsbRiseInFallOut(payload)` (R150). -/
  | bytesInOutMsbRiseInFallOut (payload : List Byte)
  /-- `BYTES_INOUT_MSB_FALL_IN_RISE_OUT`, 0x34, `BytesInOutMsbFallInRiseOut(payload)` (R151). -/
  | bytesInOutMsbFallInRiseOut (payload : List Byte)
  /-- `SYNC_PROBE_1`, 0xAA, the first probe of the handshake (R176). -/
  | syncProbe1
  /-- `SYNC_PROBE_2`, 0xAB, the second probe of the handshake (R176). -/
  | syncProbe2
deriving DecidableEq, Repr

end Sys2Proof
end

