-- ==== Sys2Proof/WellFormed.lean ====
section
/-! DEFINITION. Which wire commands can be encoded (R121, R122), which an instance has (R152), and which are operations of
the caller (R89). -/

namespace Sys2Proof

/-- A payload of 1 to 65536 bytes (R80, R121). -/
def payloadOk (payload : List Byte) : Bool :=
  1 ≤ payload.length && payload.length ≤ Config.maxLen

/-- A bit count of 1 to 8 (R81, R122). -/
def bitCountOk (n : Nat) : Bool :=
  1 ≤ n && n ≤ Config.maxBits

/-- The operands of a wire command are ones its encoding admits (R70 to R79). -/
def Instr.wellFormed : Instr → Bool
  | .bytesOutMsbFall p => payloadOk p
  | .bitsOutMsbFall n _ => bitCountOk n
  | .bitsInMsbRise n => bitCountOk n
  | .setBitsLow _ _ => true
  | .setBitsHigh _ _ => true
  | .readBitsLow => true
  | .readBitsHigh => true
  | .setClkDiv _ => true
  | .sendImmediate => true
  | .disClkDiv5 => true
  | .en3Phase => true
  | .loopbackOff => true
  | .setDriveZero _ _ => true
  | .bytesOutMsbRise p => payloadOk p
  | .bytesInOutMsbRiseInFallOut p => payloadOk p
  | .bytesInOutMsbFallInRiseOut p => payloadOk p
  | .syncProbe1 => true
  | .syncProbe2 => true

/-- Capability gating (R152, R88): which commands are part of the interface of an instance with capabilities `cap`. -/
def Instr.available (cap : Capabilities) : Instr → Bool
  | .bytesOutMsbFall _ => true
  | .bitsOutMsbFall _ _ => true
  | .bitsInMsbRise _ => true
  | .setBitsLow _ _ => true
  | .setBitsHigh _ _ => true
  | .readBitsLow => true
  | .readBitsHigh => true
  | .setClkDiv _ => true
  | .sendImmediate => true
  | .disClkDiv5 => cap.hasClockDivideBy5
  | .en3Phase => cap.hasThreePhaseClocking
  | .loopbackOff => true
  | .setDriveZero _ _ => cap.hasDriveOn0TristateOn1
  | .bytesOutMsbRise _ => true
  | .bytesInOutMsbRiseInFallOut _ => true
  | .bytesInOutMsbFallInRiseOut _ => true
  | .syncProbe1 => true
  | .syncProbe2 => true

/-- Format `F_BAD` (R79): the bytes the handshake alone sends. They are no logical operation of R89. -/
def Instr.isProbe : Instr → Bool
  | .syncProbe1 => true
  | .syncProbe2 => true
  | .bytesOutMsbFall _ => false
  | .bitsOutMsbFall _ _ => false
  | .bitsInMsbRise _ => false
  | .setBitsLow _ _ => false
  | .setBitsHigh _ _ => false
  | .readBitsLow => false
  | .readBitsHigh => false
  | .setClkDiv _ => false
  | .sendImmediate => false
  | .disClkDiv5 => false
  | .en3Phase => false
  | .loopbackOff => false
  | .setDriveZero _ _ => false
  | .bytesOutMsbRise _ => false
  | .bytesInOutMsbRiseInFallOut _ => false
  | .bytesInOutMsbFallInRiseOut _ => false

end Sys2Proof
end

