-- ==== Sys2Proof/Decode.lean ====
section
/-! DEFINITION. Reading wire commands from a byte stream (R70, R85) and writing them (R71 to R79). -/

namespace Sys2Proof

/-- `lo8(n)` (R10): bits 7 to 0. -/
def lo8 (n : Nat) : Byte := BitVec.ofNat 8 n

/-- `hi8(n)` (R10): bits 15 to 8. -/
def hi8 (n : Nat) : Byte := BitVec.ofNat 8 (n / 256)

/-- A 16-bit field sent low byte first (R53). -/
def u16 (lo hi : Byte) : Nat := lo.toNat + 256 * hi.toNat

/-- Why a byte sequence does not begin with a wire command (R85, R86). -/
inductive DecodeError where
  /-- Nothing to decode. -/
  | emptyStream
  /-- Byte 0 is none of the opcodes of R83. -/
  | unknownOpcode (op : Byte)
  /-- The command runs past the end of the sequence. -/
  | truncated (op : Byte)
  /-- A bit-count field above 7, which no encoder writes (R81). -/
  | badBitCount (op field : Byte)
deriving DecidableEq, Repr

/-- The first `n` bytes of a sequence and the rest, if it has that many. -/
def takeExactly : Nat → List Byte → Option (List Byte × List Byte)
  | 0, bs => some ([], bs)
  | _ + 1, [] => none
  | n + 1, b :: bs => (takeExactly n bs).map fun (p, rest) => (b :: p, rest)

/-- Formats `F_BYTES_OUT` and `F_BYTES_INOUT` after the opcode (R75, R76). -/
def decodePayload (op : Byte) (mk : List Byte → Instr) : List Byte → Except DecodeError (Instr × List Byte)
  | lenL :: lenH :: rest =>
    match takeExactly (u16 lenL lenH + 1) rest with
    | some (payload, rest') => .ok (mk payload, rest')
    | none => .error (.truncated op)
  | _ => .error (.truncated op)

/-- A bit-count field (R81). -/
def decodeBitCount (op field : Byte) (mk : Nat → Instr) (rest : List Byte) : Except DecodeError (Instr × List Byte) :=
  if field.toNat < Config.maxBits then .ok (mk (field.toNat + 1), rest) else .error (.badBitCount op field)

/-- Formats with one operand byte. -/
def decodeOne (op : Byte) (k : Byte → List Byte → Except DecodeError (Instr × List Byte)) :
    List Byte → Except DecodeError (Instr × List Byte)
  | a :: rest => k a rest
  | [] => .error (.truncated op)

/-- Formats with two operand bytes (R72, R73, R74, R77). -/
def decodeTwo (op : Byte) (k : Byte → Byte → List Byte → Except DecodeError (Instr × List Byte)) :
    List Byte → Except DecodeError (Instr × List Byte)
  | a :: b :: rest => k a b rest
  | _ => .error (.truncated op)

/-- The wire command a byte sequence begins with, and the bytes after it (R85). Total: anything that is not a command of
R83 is rejected by name. -/
def decode : List Byte → Except DecodeError (Instr × List Byte)
  | [] => .error .emptyStream
  | op :: rest =>
    if op = 0x11#8 then decodePayload op .bytesOutMsbFall rest
    else if op = 0x13#8 then decodeTwo op (fun nbits data => decodeBitCount op nbits (fun n => .bitsOutMsbFall n data)) rest
    else if op = 0x22#8 then decodeOne op (fun nbits => decodeBitCount op nbits .bitsInMsbRise) rest
    else if op = 0x80#8 then decodeTwo op (fun v d rest => .ok (.setBitsLow v d, rest)) rest
    else if op = 0x82#8 then decodeTwo op (fun v d rest => .ok (.setBitsHigh v d, rest)) rest
    else if op = 0x81#8 then .ok (.readBitsLow, rest)
    else if op = 0x83#8 then .ok (.readBitsHigh, rest)
    else if op = 0x86#8 then decodeTwo op (fun l h rest => .ok (.setClkDiv (BitVec.ofNat 16 (u16 l h)), rest)) rest
    else if op = 0x87#8 then .ok (.sendImmediate, rest)
    else if op = 0x8A#8 then .ok (.disClkDiv5, rest)
    else if op = 0x8C#8 then .ok (.en3Phase, rest)
    else if op = 0x85#8 then .ok (.loopbackOff, rest)
    else if op = 0x9E#8 then decodeTwo op (fun l h rest => .ok (.setDriveZero l h, rest)) rest
    else if op = Config.opBytesOutMsbRise then decodePayload op .bytesOutMsbRise rest
    else if op = Config.opBytesInOutMsbRiseInFallOut then decodePayload op .bytesInOutMsbRiseInFallOut rest
    else if op = Config.opBytesInOutMsbFallInRiseOut then decodePayload op .bytesInOutMsbFallInRiseOut rest
    else if op = Config.syncByte1 then .ok (.syncProbe1, rest)
    else if op = Config.syncByte2 then .ok (.syncProbe2, rest)
    else .error (.unknownOpcode op)

/-- Decoding of at most `fuel` commands. Every command takes at least one byte, so as many commands as bytes suffice. -/
def decodeStreamFuel : Nat → List Byte → Option (List Instr)
  | _, [] => some []
  | 0, _ :: _ => none
  | fuel + 1, b :: bs =>
    match decode (b :: bs) with
    | .ok (i, rest) => (decodeStreamFuel fuel rest).map (i :: ·)
    | .error _ => none

/-- The commands a whole byte sequence consists of (R85), if it is a sequence of whole commands. -/
def decodeStream (bs : List Byte) : Option (List Instr) := decodeStreamFuel bs.length bs

/-- The length field of a byte-oriented command, `L - 1` low byte first (R80), and the payload. -/
def encodePayload (op : Byte) (payload : List Byte) : List Byte :=
  op :: lo8 (payload.length - 1) :: hi8 (payload.length - 1) :: payload

/-- The bytes of a wire command (R71 to R79), for well-formed operands. -/
def encode : Instr → List Byte
  | .bytesOutMsbFall p => encodePayload 0x11#8 p
  | .bitsOutMsbFall n data => [0x13#8, lo8 (n - 1), data]
  | .bitsInMsbRise n => [0x22#8, lo8 (n - 1)]
  | .setBitsLow v d => [0x80#8, v, d]
  | .setBitsHigh v d => [0x82#8, v, d]
  | .readBitsLow => [0x81#8]
  | .readBitsHigh => [0x83#8]
  | .setClkDiv divisor => [0x86#8, lo8 divisor.toNat, hi8 divisor.toNat]
  | .sendImmediate => [0x87#8]
  | .disClkDiv5 => [0x8A#8]
  | .en3Phase => [0x8C#8]
  | .loopbackOff => [0x85#8]
  | .setDriveZero l h => [0x9E#8, l, h]
  | .bytesOutMsbRise p => encodePayload Config.opBytesOutMsbRise p
  | .bytesInOutMsbRiseInFallOut p => encodePayload Config.opBytesInOutMsbRiseInFallOut p
  | .bytesInOutMsbFallInRiseOut p => encodePayload Config.opBytesInOutMsbFallInRiseOut p
  | .syncProbe1 => [Config.syncByte1]
  | .syncProbe2 => [Config.syncByte2]

/-- The `k` low bytes of a number, the least significant first. -/
def bytesOfNat : Nat → Nat → List Byte
  | 0, _ => []
  | k + 1, w => BitVec.ofNat 8 w :: bytesOfNat k (w / 256)

/-- The longest wire command, in bytes (R70). -/
def maxCommandBytes : Nat := 65539

/-- The command a word of the opcode table's numbering stands for: its bytes, least significant first, then zeros up to
the longest command. -/
def decodeTableWord (nbits w : Nat) : Option Instr :=
  match decode (bytesOfNat (nbits / 8) w ++ List.replicate maxCommandBytes 0#8) with
  | .ok (i, _) => some i
  | .error _ => none

end Sys2Proof
end

