-- ==== Sys2Proof/Machine/Port.lean ====
section
/-! DEFINITION. What passes through the ports of R44: the requests of the caller, the results and errors that go back to
it, and the calls on the transport. -/

namespace Sys2Proof.Machine

/-- The two pin banks (R20). -/
inductive Bank where
  | low
  | high
deriving DecidableEq, Repr

/-- The four pin registers `PIN[b].V` and `PIN[b].D` (R20). -/
inductive PinReg where
  | value (b : Bank)
  | direction (b : Bank)
deriving DecidableEq, Repr

/-- The SPI modes (R39, R218). -/
inductive SpiMode where
  | mode0
  | mode2
deriving DecidableEq, Repr

/-- The chip-select policies (R39, R217). -/
inductive CsPolicy where
  | activeLow
  | activeHigh
  | defaultLow
  | defaultHigh
deriving DecidableEq, Repr

/-- The SPI configuration record (R39). `chipSelectPin` is as the caller gives it; above 7 it is a `RangeError` (R216). -/
structure SpiConfig where
  mode             : SpiMode
  chipSelectPin    : Nat
  chipSelectPolicy : CsPolicy
deriving DecidableEq, Repr

/-- The bring-up and tear-down calls of the transport (R44, R262). The block makes none of them in any rule; the caller
does, through the handle the block's lock guards. `BITMODE_RESET` and `BITMODE_MPSSE` (R252) are OPEN: the caller gives the
mode byte. -/
inductive BringUpCall where
  | openDevice (identifier : Nat)
  | close
  | configure (latencyMs readTimeoutMs writeTimeoutMs : Nat) (eventChar errorChar : Option Byte)
  | setBitMode (mask mode : Byte)
deriving DecidableEq, Repr

/-- The functions of the transport port, as `TransportError` records which one failed (R239). -/
inductive TransportFn where
  | write
  | read
  | status
  | bringUp (c : BringUpCall)
deriving DecidableEq, Repr

/-- One call on the transport with its argument bytes or count: an entry of the observation of a run (R8). -/
inductive TransportCall where
  | write (bytes : List Byte)
  | bytesAvailable
  | read (count : Nat)
  | bringUp (c : BringUpCall)
deriving DecidableEq, Repr

/-- The four error classes, a closed list (R235, R245), with the information R236 to R239 record. -/
inductive OpError where
  /-- The offending index or length (R236). -/
  | rangeError (offending : Nat)
  /-- The offending length or count (R237). -/
  | encodingError (offending : Nat)
  /-- The probe byte and the bytes read; none if nothing came within the poll limit (R238). -/
  | syncError (probe : Byte) (reply : Option (List Byte))
  /-- Which call failed (R239). -/
  | transportError (call : TransportFn)
deriving DecidableEq, Repr

/-- The two fatal classes, the values `FAULT` can record (R32). -/
inductive FatalError where
  | syncError
  | transportError
deriving DecidableEq, Repr

/-- What a request returns to the caller (R44): one result or one error. -/
inductive OpResult where
  /-- The operation has no result. -/
  | done
  /-- A register value (R100), a pin level byte (R111) or a received byte (R200). -/
  | byte (v : Byte)
  /-- The answer of `is_set` (R104) or one ACK result (R194). -/
  | flag (b : Bool)
  /-- The ACK results of `I2C.SendBytes` (R198). -/
  | flags (bs : List Bool)
  /-- The response of a flush (R162) or of `Spi.readWrite` (R224). -/
  | bytes (bs : List Byte)
  /-- What an encoder function returns (R120): the EncodedCommand and its expected response length. -/
  | encoded (bytes : List Byte) (expected : Nat)
  | error (e : OpError)
deriving DecidableEq, Repr

/-- The operation requests of the `OP` port (R44): everything of R89 and R90, the buffer primitives (R160, R162), and the
transport's own bring-up calls (R262). -/
inductive Request where
  | setBit (r : PinReg) (i : Nat)
  | unsetBit (r : PinReg) (i : Nat)
  | toggleBit (r : PinReg) (i : Nat)
  | isSet (r : PinReg) (i : Nat)
  | mask (r : PinReg) (bits : List (Option Bool))
  | fromByte (r : PinReg) (v : Byte)
  | toByte (r : PinReg)
  | pinWrite (b : Bank)
  | pinRead (b : Bank)
  /-- `Enqueue(op(args))` for the logical operation of a wire command; a probe byte is accepted inside
  the handshake alone, which sends it itself. -/
  | wire (i : Instr)
  /-- A call of the encoder function alone (R120). -/
  | encodeOnly (i : Instr)
  /-- `enqueue(bytes, e)` by the caller (R160). -/
  | enqueue (bytes : List Byte) (expected : Nat)
  | flush
  | syncHandshake
  | i2cStart
  | i2cStop
  | i2cSendDeviceAddrAndCheckAck (address : Byte) (readFlag : Bool)
  | i2cSendByteAndCheckAck (byte : Byte)
  | i2cSendBytes (bytes : List Byte)
  | i2cReceiveByte (ackToSend : Bool)
  | spiConfigure (cfg : SpiConfig)
  | spiWrite (bytes : List Byte)
  | spiReadWrite (bytes : List Byte)
  | bringUp (c : BringUpCall)
deriving DecidableEq, Repr

end Sys2Proof.Machine
end

