-- ==== Sys2Proof/Machine/State.lean ====
section
/-! DEFINITION. The architectural state of one block instance (10_state.md) as plain data, what can stop a step, and the
state right after construction (R45). -/

namespace Sys2Proof.Machine

/-- A RegisterPair (R20): the value and the direction register of one bank. -/
structure RegisterPair where
  value     : Byte
  direction : Byte
deriving DecidableEq, Repr

/-- The I2C state register `fsm` (R29). `stopped` is passed through inside `Stop` only (R207). -/
inductive Fsm where
  | idle
  | started
  | addressPhase
  | dataPhase
  | stopped
deriving DecidableEq, Repr

/-- `SYNC` (R31). -/
inductive Sync where
  | unsynced
  | synced
deriving DecidableEq, Repr

/-- The two probe rounds of a handshake, in their order (R175, R179). -/
inductive Round where
  | first
  | second
deriving DecidableEq, Repr

/-- `LOCK` (R33). -/
inductive Lock where
  | free
  | held
deriving DecidableEq, Repr

/-- The shadow configuration registers `CFG.*` (R34 to R38). -/
structure Shadow where
  clkdiv   : Option (BitVec 16)
  div5     : Option Bool
  phase3   : Option Bool
  loopback : Option Bool
  drive0   : Option (Byte × Byte)
deriving DecidableEq, Repr

/-- Every shadow `None`: nothing known of what the engine was last sent (R45, R244). -/
def Shadow.unknown : Shadow where
  clkdiv := none
  div5 := none
  phase3 := none
  loopback := none
  drive0 := none

/-- The state of one block instance. The first thirteen fields are the spec's (R45). The last six are the model's own:
where a running handshake stands, the inputs still to come (requests of the caller, answers of the transport) and the
observation of the run so far (R8). -/
structure State where
  /-- `PIN[LOW].V`, `PIN[LOW].D` (R20). -/
  low       : RegisterPair
  /-- `PIN[HIGH].V`, `PIN[HIGH].D` (R20). -/
  high      : RegisterPair
  /-- `TXBUF` (R25), unbounded (D11). -/
  txbuf     : List Byte
  /-- `RXEXP` (R26): one expected response length per pending fragment. -/
  rxexp     : List Nat
  /-- `fsm` (R29). -/
  fsm       : Fsm
  /-- `SYNC` (R31). -/
  sync      : Sync
  /-- `FAULT` (R32). -/
  fault     : Option FatalError
  /-- `LOCK` (R33). -/
  lock      : Lock
  /-- `CFG.*` (R34 to R38). -/
  cfg       : Shadow
  /-- `SPI_CFG` (R39). -/
  spiCfg    : Option SpiConfig
  /-- `CAP` (R40) and the other parameters of R6; written by no operation. -/
  params    : Params
  /-- The probe round a running `SyncHandshake` sends next; none when no handshake is running, so always none between
  operations (log entry 10). -/
  handshake : Option Round
  /-- Requests waiting at the `OP` port, in the order they are served (log entry 2). -/
  requests  : List Request
  /-- Answers of the transport to the calls to come (R58, log entry 3). -/
  answers   : List Answer
  /-- How many answers were drawn from `Config.freeAnswer` (log entry 3). -/
  draws     : Nat
  /-- The transport calls made so far, in order (R8). -/
  calls     : List TransportCall
  /-- The results and errors returned to the caller so far, in order (R8). -/
  results   : List OpResult
deriving DecidableEq, Repr

/-- Why the machine stops. The block itself never stops: every error of the spec is taken and returned to the caller. -/
inductive Fault where
  /-- Raised by `step` alone: `LOCK` is held, so a request has no step, it waits (R60). Safe: the model stops where the
  hardware goes on once the holder has returned. No run from a constructed instance reaches it. -/
  | lockHeld
deriving DecidableEq, Repr

/-- Why a request has no meaning. -/
inductive Refusal where
  /-- Raised by an arm of `exec` whose instruction has no meaning yet. Safe. None is left. -/
  | notModelled (mnemonic : String)
  /-- Raised by every enqueuing or flushing operation and by the encoder call while `SYNC = Unsynced`: R246 and U3 ask a
  model to refuse it. Safe. -/
  | unsynced
  /-- Raised by an operation whose capability flag is false: it is not part of the instance's interface (R152, U6). Safe. -/
  | capabilityAbsent
  /-- Raised by `Spi.write` and `Spi.readWrite` without `SPI_CFG`, which they require present (R39, R222). Safe. -/
  | spiNotConfigured
  /-- Raised by a direct `enqueue` of bytes that are not a non-empty sequence of whole commands of the encoder (R160, R86).
  Safe. -/
  | malformedCommand
  /-- Raised by a probe byte outside its round of a running handshake, the block being in service: the handshake alone sends
  it (R79, R87). Safe. -/
  | outsideHandshake
  /-- Raised by a call of an encoder function for a probe byte: R89 lists none. Safe. -/
  | notAnOperation
deriving DecidableEq, Repr

/-- The outcome of one operation or step. -/
abbrev Result := Host.Outcome State Fault Refusal

/-- The state after construction of an instance with parameters `p` (R45, R260). The model's own fields are empty. -/
def State.constructed (p : Params) : State where
  low := { value := Config.resetValue, direction := Config.resetDirection }
  high := { value := Config.resetValue, direction := Config.resetDirection }
  txbuf := []
  rxexp := []
  fsm := .idle
  sync := .unsynced
  fault := none
  lock := .free
  cfg := Shadow.unknown
  spiCfg := none
  params := p
  handshake := none
  requests := []
  answers := []
  draws := 0
  calls := []
  results := []

/-- The machine right after reset: the construction (R260) of the instance with the parameters `Config.params`. -/
def State.reset : State := State.constructed Config.params

end Sys2Proof.Machine
end

