-- ==== Sys2Proof/Machine/Encoder.lean ====
section
/-! DEFINITION. The command encoder: one pure function per logical operation (R89, R120), written from the pseudocode of
41_wire_commands.md. `Decode.lean` has the same layouts once more, from the formats of 30_encoding.md. -/

namespace Sys2Proof.Machine

/-- An EncodedCommand and its expected response length (R120). -/
abbrev Encoded := List Byte × Nat

/-- The byte-length rule (R121): the length is checked, then `L - 1` goes out low byte first and the payload after it. -/
def byteCommand (op : Byte) (payload : List Byte) (expected : Nat) : Except OpError Encoded :=
  if payload.length = 0 ∨ payload.length > Config.maxLen then .error (.encodingError payload.length)
  else .ok ([op, lo8 (payload.length - 1), hi8 (payload.length - 1)] ++ payload, expected)

/-- The bit-length rule (R122): the count is checked, then `n - 1` goes out and what follows it. -/
def bitCommand (op : Byte) (n : Nat) (operands : List Byte) (expected : Nat) : Except OpError Encoded :=
  if n = 0 ∨ n > Config.maxBits then .error (.encodingError n)
  else .ok ([op, lo8 (n - 1)] ++ operands, expected)

/-- R124. -/
def Encoder.bytesOutMsbFall (payload : List Byte) : Except OpError Encoded := byteCommand 0x11#8 payload 0

/-- R126. -/
def Encoder.bitsOutMsbFall (n : Nat) (data : Byte) : Except OpError Encoded := bitCommand 0x13#8 n [data] 0

/-- R128. -/
def Encoder.bitsInMsbRise (n : Nat) : Except OpError Encoded := bitCommand 0x22#8 n [] 1

/-- R149. -/
def Encoder.bytesOutMsbRise (payload : List Byte) : Except OpError Encoded :=
  byteCommand Config.opBytesOutMsbRise payload 0

/-- R150: as many response bytes as payload bytes. -/
def Encoder.bytesInOutMsbRiseInFallOut (payload : List Byte) : Except OpError Encoded :=
  byteCommand Config.opBytesInOutMsbRiseInFallOut payload payload.length

/-- R151: as many response bytes as payload bytes. -/
def Encoder.bytesInOutMsbFallInRiseOut (payload : List Byte) : Except OpError Encoded :=
  byteCommand Config.opBytesInOutMsbFallInRiseOut payload payload.length

/-- R130. -/
def Encoder.setDataBitsLowByte (value direction : Byte) : Encoded := ([0x80#8, value, direction], 0)

/-- R132. -/
def Encoder.setDataBitsHighByte (value direction : Byte) : Encoded := ([0x82#8, value, direction], 0)

/-- R134. -/
def Encoder.readDataBitsLowByte : Encoded := ([0x81#8], 1)

/-- R136. -/
def Encoder.readDataBitsHighByte : Encoded := ([0x83#8], 1)

/-- R138. -/
def Encoder.sendImmediate : Encoded := ([0x87#8], 0)

/-- R140. -/
def Encoder.setClockDivisor (divisor : BitVec 16) : Encoded := ([0x86#8, lo8 divisor.toNat, hi8 divisor.toNat], 0)

/-- R142. -/
def Encoder.disconnectLoopback : Encoded := ([0x85#8], 0)

/-- R144. -/
def Encoder.disableClockDivideBy5 : Encoded := ([0x8A#8], 0)

/-- R146. -/
def Encoder.enableThreePhaseClocking : Encoded := ([0x8C#8], 0)

/-- R148. -/
def Encoder.setDriveZero (lowMask highMask : Byte) : Encoded := ([0x9E#8, lowMask, highMask], 0)

/-- The encoder function of a wire command; none for the two probe bytes, which are no logical operation (R89). -/
def encoderOf : Instr → Option (Except OpError Encoded)
  | .bytesOutMsbFall p => some (Encoder.bytesOutMsbFall p)
  | .bitsOutMsbFall n data => some (Encoder.bitsOutMsbFall n data)
  | .bitsInMsbRise n => some (Encoder.bitsInMsbRise n)
  | .setBitsLow v d => some (.ok (Encoder.setDataBitsLowByte v d))
  | .setBitsHigh v d => some (.ok (Encoder.setDataBitsHighByte v d))
  | .readBitsLow => some (.ok Encoder.readDataBitsLowByte)
  | .readBitsHigh => some (.ok Encoder.readDataBitsHighByte)
  | .setClkDiv divisor => some (.ok (Encoder.setClockDivisor divisor))
  | .sendImmediate => some (.ok Encoder.sendImmediate)
  | .disClkDiv5 => some (.ok Encoder.disableClockDivideBy5)
  | .en3Phase => some (.ok Encoder.enableThreePhaseClocking)
  | .loopbackOff => some (.ok Encoder.disconnectLoopback)
  | .setDriveZero l h => some (.ok (Encoder.setDriveZero l h))
  | .bytesOutMsbRise p => some (Encoder.bytesOutMsbRise p)
  | .bytesInOutMsbRiseInFallOut p => some (Encoder.bytesInOutMsbRiseInFallOut p)
  | .bytesInOutMsbFallInRiseOut p => some (Encoder.bytesInOutMsbFallInRiseOut p)
  | .syncProbe1 => none
  | .syncProbe2 => none

end Sys2Proof.Machine
end

