-- ==== Sys2Proof/Machine/Flags.lean ====
section
/-! DEFINITION. What plays the part of flags (R30): the ACK result, `SYNC` and `FAULT`; the check of a probe's echo (R177);
the levels of chip-select (R217); and the I2C transition function (R206). -/

namespace Sys2Proof.Machine

/-- The ACK result (R202): asserted when bit 0 of the response byte is 0; the other bits are ignored. -/
def ackOf (response : Byte) : Bool := !response.getLsbD 0

/-- The byte `ReceiveByte` sends (R200): 0x00 is ACK, 0xFF is NACK. -/
def ackByte (ackToSend : Bool) : Byte := if ackToSend then 0x00#8 else 0xFF#8

/-- The echo of a probe (R177): `[0xFA, x]` as a contiguous subsequence of what was read. -/
def echoFound (x : Byte) : List Byte → Bool
  | a :: b :: rest => (a == Config.badCmd && b == x) || echoFound x (b :: rest)
  | _ => false

/-- `SYNC <- Synced; FAULT <- None`: what a successful handshake writes (R179), which is the block's only return to service
after a fatal error (R248). The handshake is over. -/
def State.establishSync (s : State) : State := { s with sync := .synced, fault := none, handshake := none }

/-- `IdleLevel` (R217). -/
def CsPolicy.idleLevel : CsPolicy → Bool
  | .activeLow => true
  | .activeHigh => false
  | .defaultLow => false
  | .defaultHigh => true

/-- `ActiveLevel` (R217): none for the policies that do not toggle. -/
def CsPolicy.activeLevel : CsPolicy → Option Bool
  | .activeLow => some false
  | .activeHigh => some true
  | .defaultLow => none
  | .defaultHigh => none

/-- The I2C operations, as the transition function names them (R206). -/
inductive I2cOp where
  | start
  | sendAddress
  | data
  | stop
deriving DecidableEq, Repr

/-- The transition function of `fsm` (R206), at the successful end of an operation. It is total. `Stop` ends in `Idle`. -/
def fsmAfter : I2cOp → Fsm
  | .start => .started
  | .sendAddress => .addressPhase
  | .data => .dataPhase
  | .stop => .idle

end Sys2Proof.Machine
end

