-- ==== Sys2Proof/Machine/Operands.lean ====
section
/-! DEFINITION. The bit operations on one 8-bit register (R100 to R108), access to the pin registers (R20), and the slices
of a response (R163). -/

namespace Sys2Proof.Machine

/-- `1 << i` as a byte. -/
def bitMask (i : Nat) : Byte := 1#8 <<< i

/-- `r | (1 << i)` (R101). -/
def setBit (r : Byte) (i : Nat) : Byte := r ||| bitMask i

/-- `r & (0xFF ^ (1 << i))` (R102). -/
def unsetBit (r : Byte) (i : Nat) : Byte := r &&& (0xFF#8 ^^^ bitMask i)

/-- `r ^ (1 << i)` (R103). -/
def toggleBit (r : Byte) (i : Nat) : Byte := r ^^^ bitMask i

/-- `r[i] = 1` (R104). -/
def isSet (r : Byte) (i : Nat) : Bool := r.getLsbD i

/-- Bit `i` made 1 or 0. -/
def putBit (r : Byte) (i : Nat) (level : Bool) : Byte := if level then setBit r i else unsetBit r i

/-- One element of a `mask` array (R105): `None` leaves the bit. -/
def maskBit (r : Byte) (i : Nat) : Option Bool → Byte
  | some level => putBit r i level
  | none => r

/-- `mask` (R105): the last element of the array goes to bit 0, so an element with `j` elements after it goes to bit `j`. -/
def maskByte : List (Option Bool) → Byte → Byte
  | [], r => r
  | b :: bs, r => maskByte bs (maskBit r bs.length b)

/-- The content of a pin register (R20), which is `to_byte` of it (R108). -/
def State.pin (s : State) : PinReg → Byte
  | .value .low => s.low.value
  | .value .high => s.high.value
  | .direction .low => s.low.direction
  | .direction .high => s.high.direction

/-- A write of a pin register: `PIN[b].V <- v` or `PIN[b].D <- v` (R10). -/
def State.setPin (s : State) (r : PinReg) (v : Byte) : State :=
  match r with
  | .value .low => { s with low := { s.low with value := v } }
  | .value .high => { s with high := { s.high with value := v } }
  | .direction .low => { s with low := { s.low with direction := v } }
  | .direction .high => { s with high := { s.high with direction := v } }

/-- `PIN[LOW].V <- v`. -/
abbrev State.setLowV (s : State) (v : Byte) : State := s.setPin (.value .low) v

/-- `PIN[LOW].D <- d`. -/
abbrev State.setLowD (s : State) (d : Byte) : State := s.setPin (.direction .low) d

/-- `MemRead(RX, n)` (R10, R163): the bytes of `resp` that fragment `k` owns, where `lens` are the expected lengths of all
the fragments of the flush. -/
def slice (lens : List Nat) (resp : List Byte) (k : Nat) : List Byte :=
  (resp.drop (lens.take k).sum).take (lens.getD k 0)

/-- The byte of a 1-byte slice. -/
def sliceByte (lens : List Nat) (resp : List Byte) (k : Nat) : Byte :=
  (slice lens resp k).headD 0#8

end Sys2Proof.Machine
end

