-- ==== Sys2Proof/Machine/Ops.lean ====
section
/-! DEFINITION. The operations every meaning is built from: a call on the transport (R44, R58), `enqueue` and `flush` (R160,
R162), the shadow registers (R123), the taking of an error (R240 to R244), and the `SYNC` and capability checks (R246, R152). -/

namespace Sys2Proof.Machine

/-- What a step of an operation that can fail gives: a value or an error, and the state reached. -/
abbrev Attempt (α : Type) := Except OpError α × State

/-- What follows a step that may have failed: after a failure nothing, no later call is made (R247 (3)). -/
def andThen {α β : Type} (a : Attempt α) (k : α → State → Attempt β) : Attempt β :=
  match a with
  | (.ok v, s) => k v s
  | (.error e, s) => (.error e, s)

/-! ## The transport -/

/-- The answer to the next transport call (R58): the next scripted one, else a free one. -/
def State.answer (s : State) : Answer :=
  match s.answers with
  | a :: _ => a
  | [] => Config.freeAnswer s.draws

/-- The state after a transport call: the call is part of the observation (R8) and its answer is used up. -/
def State.afterCall (s : State) (c : TransportCall) : State :=
  { s with
    calls := s.calls ++ [c]
    answers := s.answers.tail
    draws := if s.answers.isEmpty then s.draws + 1 else s.draws }

/-- `T.write(bytes)` (R44). It succeeds when the transport reports every byte written (R165). -/
def State.transportWrite (s : State) (bytes : List Byte) : Attempt Unit :=
  if s.answer.ok && s.answer.count == bytes.length then (.ok (), s.afterCall (.write bytes))
  else (.error (.transportError .write), s.afterCall (.write bytes))

/-- `T.read(n)` (R44), which returns at most `n` bytes. It succeeds when it returns `n` (R165). -/
def State.transportRead (s : State) (n : Nat) : Attempt (List Byte) :=
  if s.answer.ok && (s.answer.bytes.take n).length == n then (.ok (s.answer.bytes.take n), s.afterCall (.read n))
  else (.error (.transportError .read), s.afterCall (.read n))

/-- `T.bytes_available()` (R44). -/
def State.transportAvailable (s : State) : Attempt Nat :=
  if s.answer.ok then (.ok s.answer.count, s.afterCall .bytesAvailable)
  else (.error (.transportError .status), s.afterCall .bytesAvailable)

/-! ## The buffer -/

/-- `enqueue(bytes, e)` (R160). -/
def State.enqueue (s : State) (c : Encoded) : State :=
  { s with txbuf := s.txbuf ++ c.1, rxexp := s.rxexp ++ [c.2] }

/-- `TXBUF <- []; RXEXP <- []`. -/
def State.clearBuffers (s : State) : State := { s with txbuf := [], rxexp := [] }

/-- `Enqueue` of what an encoder function returned, in a macro whose constant arguments make an error impossible (R204). -/
def State.enqueueEncoded (s : State) : Except OpError Encoded → State
  | .ok c => s.enqueue c
  | .error _ => s

/-- `flush()` (R162, R164, R165): nothing for an empty buffer; else one write of all of it and, if a response is expected,
one read of exactly that many bytes; the buffers are cleared at the end. -/
def State.flush (s : State) : Attempt (List Byte) :=
  if s.txbuf = [] then (.ok [], { s with rxexp := [] })
  else
    andThen (s.transportWrite s.txbuf) fun _ s1 =>
      if s.rxexp.sum = 0 then (.ok [], s1.clearBuffers)
      else andThen (s1.transportRead s.rxexp.sum) fun resp s2 => (.ok resp, s2.clearBuffers)

/-! ## The shadow registers -/

/-- The shadow a configuration command writes when it is enqueued (R123, R140 to R148); any other command writes none. -/
def Shadow.record (c : Shadow) : Instr → Shadow
  | .setClkDiv divisor => { c with clkdiv := some divisor }
  | .disClkDiv5 => { c with div5 := some false }
  | .en3Phase => { c with phase3 := some true }
  | .loopbackOff => { c with loopback := some false }
  | .setDriveZero l h => { c with drive0 := some (l, h) }
  | .bytesOutMsbFall _ => c
  | .bitsOutMsbFall _ _ => c
  | .bitsInMsbRise _ => c
  | .setBitsLow _ _ => c
  | .setBitsHigh _ _ => c
  | .readBitsLow => c
  | .readBitsHigh => c
  | .sendImmediate => c
  | .bytesOutMsbRise _ => c
  | .bytesInOutMsbRiseInFallOut _ => c
  | .bytesInOutMsbFallInRiseOut _ => c
  | .syncProbe1 => c
  | .syncProbe2 => c

/-- `CFG.*` after the commands `is` have been enqueued (R123). -/
def State.recordAll (s : State) (is : List Instr) : State := { s with cfg := is.foldl Shadow.record s.cfg }

/-! ## Results and errors -/

/-- The reply of an operation to its caller (R44, R8). -/
def State.reply (s : State) (r : OpResult) : State := { s with results := s.results ++ [r] }

/-- The state a fatal error leaves (R243, R244): the pending bytes are dropped, the block is out of service, the shadows are
forgotten; the pin registers and `SPI_CFG` are kept. A handshake that was running is over. -/
def State.enterFatal (s : State) (e : FatalError) : State :=
  { s with txbuf := [], rxexp := [], sync := .unsynced, fault := some e, fsm := .idle, cfg := Shadow.unknown
           handshake := none }

/-- Taking an error, the one way an operation ends without a result. `RangeError` and `EncodingError` change nothing (R241,
R242); `SyncError` and `TransportError` are fatal (R243, R244). The error goes to the caller. -/
def State.raise (s : State) (e : OpError) : State :=
  match e with
  | .rangeError _ => s.reply (.error e)
  | .encodingError _ => s.reply (.error e)
  | .syncError _ _ => (s.enterFatal .syncError).reply (.error e)
  | .transportError _ => (s.enterFatal .transportError).reply (.error e)

/-- The end of an operation: what its success leaves, or the taking of its error. -/
def finish {α : Type} (a : Attempt α) (k : α → State → State) : State :=
  match a with
  | (.ok v, s) => k v s
  | (.error e, s) => s.raise e

/-! ## Checks that come first -/

/-- R246, R247 (1): the operation requires `SYNC = Synced`; while `Unsynced` nothing else is looked at. -/
def whenSynced (s : State) (body : Result) : Result :=
  match s.sync with
  | .synced => body
  | .unsynced => .refused .unsynced

/-- R152: the operation is in the instance's interface only when its capability flag is true. -/
def whenCapable (capable : Bool) (body : Result) : Result :=
  if capable then body else .refused .capabilityAbsent

/-- `Enqueue` of a logical operation whose arguments may be out of range, as a request of its own: the encoder's error, if
any, comes before anything is appended (R160, R240). -/
def enqueueOp (s : State) : Except OpError Encoded → Result
  | .ok c => .next ((s.enqueue c).reply .done)
  | .error e => .next (s.raise e)

/-! ## Emitting pin states -/

/-- `EmitLow(k)` (R187): `k` identical commands from the bank `LOW` registers, each its own fragment (R266). -/
def State.emitLow (s : State) : Nat → State
  | 0 => s
  | k + 1 => (s.enqueue (Encoder.setDataBitsLowByte s.low.value s.low.direction)).emitLow k

end Sys2Proof.Machine
end

