-- ==== Sys2Proof/Machine/BringUp.lean ====
section
/-! DEFINITION. The transport's bring-up and tear-down calls (R44, R252, R262), made by the caller through the handle the
block's lock guards (log entry 15). -/

namespace Sys2Proof.Machine

/-- The call itself (R44). -/
def State.transportBringUp (s : State) (c : BringUpCall) : Attempt Unit :=
  if s.answer.ok then (.ok (), s.afterCall (.bringUp c))
  else (.error (.transportError (.bringUp c)), s.afterCall (.bringUp c))

/-- A bring-up call: it changes no state of the block, and its failure is a `TransportError` (R239, R262). -/
def bringUpOp (s : State) (c : BringUpCall) : Result :=
  .next (finish (s.transportBringUp c) fun _ t => t.reply .done)

end Sys2Proof.Machine
end

