-- ==== Sys2Proof/Machine/Buffer.lean ====
section
/-! DEFINITION. The buffer primitives and the encoder call as requests of the caller (R160, R162, R120, R277). -/

namespace Sys2Proof.Machine

/-- `enqueue(bytes, e)` by the caller (R160, R277). The bytes must be what encoder functions return: a non-empty sequence
of whole commands of the instance's interface (R86, R152). The shadows of the configuration commands among them are
written (R123). -/
def enqueueRaw (s : State) (bytes : List Byte) (expected : Nat) : Result :=
  whenSynced s
    (match decodeStream bytes with
     | none => .refused .malformedCommand
     | some is =>
       if is.isEmpty || is.any Instr.isProbe then .refused .malformedCommand
       else whenCapable (is.all (Instr.available s.params.cap))
         (.next (((s.recordAll is).enqueue (bytes, expected)).reply .done)))

/-- `flush()` by the caller (R162). -/
def flushOp (s : State) : Result :=
  whenSynced s (.next (finish s.flush fun resp t => t.reply (.bytes resp)))

/-- A call of the encoder function of a logical operation (R120): it returns the command and its expected response length,
or the error, and changes nothing. It is in the interface under the capability of its command (R152). -/
def encodeOp (s : State) (i : Instr) : Result :=
  whenSynced s
    (match encoderOf i with
     | none => .refused .notAnOperation
     | some r =>
       whenCapable (i.available s.params.cap)
         (match r with
          | .ok c => .next (s.reply (.encoded c.1 c.2))
          | .error e => .next (s.raise e)))

end Sys2Proof.Machine
end

