-- ==== Sys2Proof/Machine/Banks.lean ====
section
/-! DEFINITION. The pin bank commands (41_wire_commands.md section 3), each as the request `Enqueue(op(args))`. None reads or
writes a pin register (R23): the operands of a set command are the caller's. -/

namespace Sys2Proof.Machine

/-- `SET_BITS_LOW` (R130). -/
def execSetBitsLow (value direction : Byte) (s : State) : Result :=
  whenSynced s (enqueueOp s (.ok (Encoder.setDataBitsLowByte value direction)))

/-- `SET_BITS_HIGH` (R132). -/
def execSetBitsHigh (value direction : Byte) (s : State) : Result :=
  whenSynced s (enqueueOp s (.ok (Encoder.setDataBitsHighByte value direction)))

/-- `READ_BITS_LOW` (R134). -/
def execReadBitsLow (s : State) : Result :=
  whenSynced s (enqueueOp s (.ok Encoder.readDataBitsLowByte))

/-- `READ_BITS_HIGH` (R136). -/
def execReadBitsHigh (s : State) : Result :=
  whenSynced s (enqueueOp s (.ok Encoder.readDataBitsHighByte))

end Sys2Proof.Machine
end

