-- ==== Sys2Proof/Machine/Control.lean ====
section
/-! DEFINITION. The system and configuration commands (41_wire_commands.md section 4), each as the request
`Enqueue(op(args))`. A configuration command writes its shadow when it is enqueued (R123). -/

namespace Sys2Proof.Machine

/-- `SEND_IMMEDIATE` (R138): it does not flush `TXBUF`. -/
def execSendImmediate (s : State) : Result :=
  whenSynced s (enqueueOp s (.ok Encoder.sendImmediate))

/-- `SET_CLK_DIV` (R140). -/
def execSetClkDiv (divisor : BitVec 16) (s : State) : Result :=
  whenSynced s
    (enqueueOp { s with cfg := { s.cfg with clkdiv := some divisor } } (.ok (Encoder.setClockDivisor divisor)))

/-- `LOOPBACK_OFF` (R142). -/
def execLoopbackOff (s : State) : Result :=
  whenSynced s
    (enqueueOp { s with cfg := { s.cfg with loopback := some false } } (.ok Encoder.disconnectLoopback))

/-- `DIS_CLK_DIV5` (R144), present only with `hasClockDivideBy5`. -/
def execDisClkDiv5 (s : State) : Result :=
  whenSynced s (whenCapable s.params.cap.hasClockDivideBy5
    (enqueueOp { s with cfg := { s.cfg with div5 := some false } } (.ok Encoder.disableClockDivideBy5)))

/-- `EN_3PHASE` (R146), present only with `hasThreePhaseClocking`. -/
def execEn3Phase (s : State) : Result :=
  whenSynced s (whenCapable s.params.cap.hasThreePhaseClocking
    (enqueueOp { s with cfg := { s.cfg with phase3 := some true } } (.ok Encoder.enableThreePhaseClocking)))

/-- `SET_DRIVE_ZERO` (R148), present only with `hasDriveOn0TristateOn1`. -/
def execSetDriveZero (lowMask highMask : Byte) (s : State) : Result :=
  whenSynced s (whenCapable s.params.cap.hasDriveOn0TristateOn1
    (enqueueOp { s with cfg := { s.cfg with drive0 := some (lowMask, highMask) } }
      (.ok (Encoder.setDriveZero lowMask highMask))))

end Sys2Proof.Machine
end

