-- ==== Sys2Proof/Machine/Handshake.lean ====
section
/-! DEFINITION. The bring-up handshake (43_sync_handshake.md) and the probe rounds its two bytes are sent in. -/

namespace Sys2Proof.Machine

/-- The poll of `T.bytes_available` (R177, R178): until the count is not 0, at most as many times as given. -/
def State.poll (s : State) : Nat → Attempt Nat
  | 0 => (.ok 0, s)
  | k + 1 =>
    andThen s.transportAvailable fun n s1 => if n = 0 then s1.poll k else (.ok n, s1)

/-- The end of a probe round (R177): one read of the reported count, and the search for the echo. -/
def State.checkEcho (s : State) (x : Byte) (n : Nat) : Attempt Unit :=
  if n = 0 then (.error (.syncError x none), s)
  else
    andThen (s.transportRead n) fun r s1 =>
      if echoFound x r then (.ok (), s1) else (.error (.syncError x (some r)), s1)

/-- One probe round, `Probe(x)` (R177): the byte is written directly, not through `TXBUF`. -/
def State.probe (s : State) (x : Byte) : Attempt Unit :=
  andThen (s.transportWrite [x]) fun _ s1 =>
    andThen (s1.poll s1.params.syncPollLimit) fun n s2 => s2.checkEcho x n

/-- The probe round a command belongs to (R176); none for every other command. -/
def roundOf (i : Instr) : Option Round :=
  if i = .syncProbe1 then some .first else if i = .syncProbe2 then some .second else none

/-- The handshake goes on to the round `r`. -/
def State.setRound (s : State) (r : Round) : State := { s with handshake := some r }

/-- The start of a handshake (R179): both buffers emptied, the first round to send. -/
def State.beginHandshake (s : State) : State := s.clearBuffers.setRound .first

/-- A probe byte is sent in its own round of a running handshake and nowhere else (R79, R87). Outside, it is refused: out of
service as every other request is (R246), in service because only the handshake sends it. -/
def whenRound (s : State) (r : Round) (body : Result) : Result :=
  if s.handshake = some r then body else whenSynced s (.refused .outsideHandshake)

/-- `SYNC_PROBE_1` (R176): the first round of a handshake (R177); if it passes, the second is next. -/
def execSyncProbe1 (s : State) : Result :=
  whenRound s .first (.next (finish (s.probe Config.syncByte1) fun _ t => t.setRound .second))

/-- `SYNC_PROBE_2` (R176): the second round of a handshake (R177); if it passes, the handshake has succeeded (R179). -/
def execSyncProbe2 (s : State) : Result :=
  whenRound s .second (.next (finish (s.probe Config.syncByte2) fun _ t => t.establishSync.reply .done))

/-- The second round, unless the first has ended the handshake (R179). -/
def secondRound : Result → Result
  | .next t => if t.handshake = some .second then execSyncProbe2 t else .next t
  | .fault f => .fault f
  | .refused r => .refused r

/-- `SyncHandshake()` (R179): buffers emptied, the two rounds in order, the second only if the first passed; accepted
whatever `SYNC` and `FAULT` hold. -/
def syncHandshake (s : State) : Result := secondRound (execSyncProbe1 s.beginHandshake)

end Sys2Proof.Machine
end

