-- ==== Sys2Proof/Machine/Shift.lean ====
section
/-! DEFINITION. The data-shifting commands (41_wire_commands.md section 2), each as the request `Enqueue(op(args))`. -/

namespace Sys2Proof.Machine

/-- `BYTES_OUT_MSB_FALL` (R124). -/
def execBytesOutMsbFall (payload : List Byte) (s : State) : Result :=
  whenSynced s (enqueueOp s (Encoder.bytesOutMsbFall payload))

/-- `BITS_OUT_MSB_FALL` (R126). -/
def execBitsOutMsbFall (n : Nat) (data : Byte) (s : State) : Result :=
  whenSynced s (enqueueOp s (Encoder.bitsOutMsbFall n data))

/-- `BITS_IN_MSB_RISE` (R128). -/
def execBitsInMsbRise (n : Nat) (s : State) : Result :=
  whenSynced s (enqueueOp s (Encoder.bitsInMsbRise n))

/-- `BYTES_OUT_MSB_RISE` (R149). -/
def execBytesOutMsbRise (payload : List Byte) (s : State) : Result :=
  whenSynced s (enqueueOp s (Encoder.bytesOutMsbRise payload))

/-- `BYTES_INOUT_MSB_RISE_IN_FALL_OUT` (R150). -/
def execBytesInOutMsbRiseInFallOut (payload : List Byte) (s : State) : Result :=
  whenSynced s (enqueueOp s (Encoder.bytesInOutMsbRiseInFallOut payload))

/-- `BYTES_INOUT_MSB_FALL_IN_RISE_OUT` (R151). -/
def execBytesInOutMsbFallInRiseOut (payload : List Byte) (s : State) : Result :=
  whenSynced s (enqueueOp s (Encoder.bytesInOutMsbFallInRiseOut payload))

end Sys2Proof.Machine
end

