-- ==== Sys2Proof/Machine/Dispatch.lean ====
section
/-! DEFINITION. One arm per wire command (R83): the request `Enqueue(op(args))`, or a probe byte's round of a running handshake. -/

namespace Sys2Proof.Machine

def exec (i : Instr) (s : State) : Host.Outcome State Fault Refusal :=
  match i with
  | .bytesOutMsbFall payload => Sys2Proof.Machine.execBytesOutMsbFall payload s
  | .bitsOutMsbFall n data => Sys2Proof.Machine.execBitsOutMsbFall n data s
  | .bitsInMsbRise n => Sys2Proof.Machine.execBitsInMsbRise n s
  | .setBitsLow value direction => Sys2Proof.Machine.execSetBitsLow value direction s
  | .setBitsHigh value direction => Sys2Proof.Machine.execSetBitsHigh value direction s
  | .readBitsLow => Sys2Proof.Machine.execReadBitsLow s
  | .readBitsHigh => Sys2Proof.Machine.execReadBitsHigh s
  | .setClkDiv divisor => Sys2Proof.Machine.execSetClkDiv divisor s
  | .sendImmediate => Sys2Proof.Machine.execSendImmediate s
  | .disClkDiv5 => Sys2Proof.Machine.execDisClkDiv5 s
  | .en3Phase => Sys2Proof.Machine.execEn3Phase s
  | .loopbackOff => Sys2Proof.Machine.execLoopbackOff s
  | .setDriveZero lowMask highMask => Sys2Proof.Machine.execSetDriveZero lowMask highMask s
  | .bytesOutMsbRise payload => Sys2Proof.Machine.execBytesOutMsbRise payload s
  | .bytesInOutMsbRiseInFallOut payload => Sys2Proof.Machine.execBytesInOutMsbRiseInFallOut payload s
  | .bytesInOutMsbFallInRiseOut payload => Sys2Proof.Machine.execBytesInOutMsbFallInRiseOut payload s
  | .syncProbe1 => Sys2Proof.Machine.execSyncProbe1 s
  | .syncProbe2 => Sys2Proof.Machine.execSyncProbe2 s

end Sys2Proof.Machine
end

