-- ==== Sys2Proof/Machine/I2c.lean ====
section
/-! DEFINITION. The I2C macro-operations (44_i2c.md). Every one emits the bytes of its rule whatever `fsm` holds (R206). -/

namespace Sys2Proof.Machine

/-- `fsm <- S` (R10). -/
def State.setFsm (s : State) (f : Fsm) : State := { s with fsm := f }

/-- `DriveSda()` (R188). -/
def State.driveSda (s : State) : State :=
  (s.setLowD (setBit s.low.direction s.params.sdaOutBit)).emitLow 1

/-- `ReleaseSda()` (R188). -/
def State.releaseSda (s : State) : State :=
  (s.setLowD (unsetBit s.low.direction s.params.sdaOutBit)).emitLow 1

/-- Level (1) of `Start` (R190): clock and data outputs, both high, held. -/
def State.startBothHigh (s : State) : State :=
  ((s.setLowD (unsetBit (setBit (setBit s.low.direction s.params.sclBit) s.params.sdaOutBit) s.params.sdaInBit)).setLowV
    (setBit (setBit s.low.value s.params.sclBit) s.params.sdaOutBit)).emitLow s.params.holdN

/-- Level (1) of `Stop` (R192): clock and data outputs, both low, held. -/
def State.stopBothLow (s : State) : State :=
  ((s.setLowD (setBit (setBit s.low.direction s.params.sclBit) s.params.sdaOutBit)).setLowV
    (unsetBit (unsetBit s.low.value s.params.sclBit) s.params.sdaOutBit)).emitLow s.params.holdN

/-- One bit of `PIN[LOW].V` set, and the level held. -/
def State.raiseLine (s : State) (i : Nat) : State :=
  (s.setLowV (setBit s.low.value i)).emitLow s.params.holdN

/-- One bit of `PIN[LOW].V` cleared, and the level held. -/
def State.dropLine (s : State) (i : Nat) : State :=
  (s.setLowV (unsetBit s.low.value i)).emitLow s.params.holdN

/-- `I2C.Start()` (R190): both high, data low while the clock is high, clock low. It does not flush. -/
def i2cStart (s : State) : Result :=
  whenSynced s
    (.next ((((s.startBothHigh.dropLine s.params.sdaOutBit).dropLine s.params.sclBit).setFsm
      (fsmAfter .start)).reply .done))

/-- `I2C.Stop()` (R192): both low, clock high while data is low, data high while the clock is high; then a flush. `fsm`
passes through `Stopped` (R207). -/
def i2cStop (s : State) : Result :=
  whenSynced s
    (.next (finish ((s.stopBothLow.raiseLine s.params.sclBit).raiseLine s.params.sdaOutBit).flush
      fun _ t => ((t.setFsm .stopped).setFsm (fsmAfter .stop)).reply .done))

/-- `SendCore(b)` (R193): drive, the byte, release, one bit in. -/
def State.sendCore (s : State) (b : Byte) : State :=
  (((s.driveSda.enqueueEncoded (Encoder.bytesOutMsbFall [b])).releaseSda).enqueueEncoded (Encoder.bitsInMsbRise 1))

/-- The index in `RXEXP` of the `BitsInMsbRise` fragment of a `SendCore` that begins with `n` fragments pending (R193). -/
def ackFragment (n : Nat) : Nat := n + 3

/-- A send of one byte with its acknowledge (R194, R196): `SendCore`, flush, and bit 0 of the slice. -/
def sendOne (s : State) (b : Byte) (op : I2cOp) : Result :=
  let t := s.sendCore b
  .next (finish t.flush fun resp u =>
    (u.setFsm (fsmAfter op)).reply (.flag (ackOf (sliceByte t.rxexp resp (ackFragment s.rxexp.length)))))

/-- The address byte (R11 (c), R194): `(address * 2 + rw) mod 256`. -/
def addressByte (address : Byte) (readFlag : Bool) : Byte :=
  BitVec.ofNat 8 (address.toNat * 2 + readFlag.toNat)

/-- `I2C.SendDeviceAddrAndCheckACK(address, readFlag)` (R194). -/
def i2cSendDeviceAddrAndCheckAck (s : State) (address : Byte) (readFlag : Bool) : Result :=
  whenSynced s (sendOne s (addressByte address readFlag) .sendAddress)

/-- `I2C.SendByteAndCheckACK(byte)` (R196). -/
def i2cSendByteAndCheckAck (s : State) (byte : Byte) : Result :=
  whenSynced s (sendOne s byte .data)

/-- `SendCore` once per byte (R198). -/
def State.sendAll (s : State) : List Byte → State
  | [] => s
  | b :: bs => (s.sendCore b).sendAll bs

/-- The ACK results of `k` sends that began with `n` fragments pending, in order (R198): each send has four fragments. -/
def ackResults (lens : List Nat) (resp : List Byte) : Nat → Nat → List Bool
  | _, 0 => []
  | n, k + 1 => ackOf (sliceByte lens resp (ackFragment n)) :: ackResults lens resp (n + 4) k

/-- `I2C.SendBytes(bytes)` (R198): all bytes, one flush, one ACK result per byte. -/
def i2cSendBytes (s : State) (bytes : List Byte) : Result :=
  whenSynced s
    (let t := s.sendAll bytes
     .next (finish t.flush fun resp u =>
       (u.setFsm (fsmAfter .data)).reply (.flags (ackResults t.rxexp resp s.rxexp.length bytes.length))))

/-- The fragments of `ReceiveByte` (R200): 8 bits in, drive, the ACK bit, release, send immediate. -/
def State.receiveCore (s : State) (ackToSend : Bool) : State :=
  ((((s.enqueueEncoded (Encoder.bitsInMsbRise 8)).driveSda).enqueueEncoded
    (Encoder.bitsOutMsbFall 1 (ackByte ackToSend))).releaseSda).enqueue Encoder.sendImmediate

/-- `I2C.ReceiveByte(ackToSend)` (R200): the result is the slice of the first fragment. -/
def i2cReceiveByte (s : State) (ackToSend : Bool) : Result :=
  whenSynced s
    (let t := s.receiveCore ackToSend
     .next (finish t.flush fun resp u =>
       (u.setFsm (fsmAfter .data)).reply (.byte (sliceByte t.rxexp resp s.rxexp.length))))

end Sys2Proof.Machine
end

