-- ==== Sys2Proof/Machine/Pins.lean ====
section
/-! DEFINITION. The pin register operations (40_pin_registers.md). R100 to R108 touch no stream and are accepted whatever
`SYNC` holds (R246). -/

namespace Sys2Proof.Machine

/-- The bit operations check their index first and change nothing when it is out of range (R100, R240). -/
def whenInRange (s : State) (i : Nat) (body : Result) : Result :=
  if i > 7 then .next (s.raise (.rangeError i)) else body

/-- A write of a pin register that returns the new value (R100). -/
def updatePin (s : State) (r : PinReg) (v : Byte) : Result := .next ((s.setPin r v).reply (.byte v))

/-- `set_bit(r, i)` (R101). -/
def pinSetBit (s : State) (r : PinReg) (i : Nat) : Result :=
  whenInRange s i (updatePin s r (setBit (s.pin r) i))

/-- `unset_bit(r, i)` (R102). -/
def pinUnsetBit (s : State) (r : PinReg) (i : Nat) : Result :=
  whenInRange s i (updatePin s r (unsetBit (s.pin r) i))

/-- `toggle_bit(r, i)` (R103). -/
def pinToggleBit (s : State) (r : PinReg) (i : Nat) : Result :=
  whenInRange s i (updatePin s r (toggleBit (s.pin r) i))

/-- `is_set(r, i)` (R104). -/
def pinIsSet (s : State) (r : PinReg) (i : Nat) : Result :=
  whenInRange s i (.next (s.reply (.flag (isSet (s.pin r) i))))

/-- `mask(r, bits)` (R105), with an array longer than 8 a `RangeError` (R106). -/
def pinMask (s : State) (r : PinReg) (bits : List (Option Bool)) : Result :=
  if bits.length > 8 then .next (s.raise (.rangeError bits.length))
  else updatePin s r (maskByte bits (s.pin r))

/-- `from_byte(r, v)` (R107). -/
def pinFromByte (s : State) (r : PinReg) (v : Byte) : Result := updatePin s r v

/-- `to_byte(r)` (R108). -/
def pinToByte (s : State) (r : PinReg) : Result := .next (s.reply (.byte (s.pin r)))

/-- The set command of a bank, from its registers (R82, R110). -/
def State.setBitsCommand (s : State) : Bank → Encoded
  | .low => Encoder.setDataBitsLowByte (s.pin (.value .low)) (s.pin (.direction .low))
  | .high => Encoder.setDataBitsHighByte (s.pin (.value .high)) (s.pin (.direction .high))

/-- The read command of a bank (R111). -/
def readBitsCommand : Bank → Encoded
  | .low => Encoder.readDataBitsLowByte
  | .high => Encoder.readDataBitsHighByte

/-- `PinWrite(b)` (R110): one set command, no flush. -/
def pinWrite (s : State) (b : Bank) : Result :=
  whenSynced s (.next ((s.enqueue (s.setBitsCommand b)).reply .done))

/-- `PinRead(b)` (R111): read, send immediate, flush; the result is the slice of the read, and no pin register changes. -/
def pinRead (s : State) (b : Bank) : Result :=
  whenSynced s
    (let t := (s.enqueue (readBitsCommand b)).enqueue Encoder.sendImmediate
     .next (finish t.flush fun resp u => u.reply (.byte (sliceByte t.rxexp resp s.rxexp.length))))

end Sys2Proof.Machine
end

