-- ==== Sys2Proof/Machine/Spi.lean ====
section
/-! DEFINITION. The SPI macro-operations (45_spi.md). -/

namespace Sys2Proof.Machine

/-- `PIN[LOW].D` after `SpiConfigure` (R216): clock, data out and chip-select outputs, data in an input. -/
def spiDirection (p : Params) (c : Nat) (d : Byte) : Byte :=
  setBit (unsetBit (setBit (setBit d p.skBit) p.doBit) p.diBit) c

/-- `PIN[LOW].V` after `SpiConfigure` (R216): the idle clock level of the mode, then the idle chip-select level. -/
def spiIdleValue (p : Params) (cfg : SpiConfig) (v : Byte) : Byte :=
  putBit (putBit v p.skBit (cfg.mode == .mode2)) cfg.chipSelectPin cfg.chipSelectPolicy.idleLevel

/-- `SpiConfigure(cfg)` (R216): the record written, one set command, no flush, at every call; `RangeError` for a pin above 7,
before any change. No other operation writes `SPI_CFG` (R39, log entry 13). -/
def spiConfigure (s : State) (cfg : SpiConfig) : Result :=
  whenSynced s
    (if cfg.chipSelectPin > 7 then .next (s.raise (.rangeError cfg.chipSelectPin))
     else
       .next ((((({ s with spiCfg := some cfg } : State).setLowD
         (spiDirection s.params cfg.chipSelectPin s.low.direction)).setLowV
         (spiIdleValue s.params cfg s.low.value)).emitLow 1).reply .done))

/-- `AssertCs()` (R219): nothing under the Default policies. -/
def State.assertCs (s : State) (cfg : SpiConfig) : State :=
  match cfg.chipSelectPolicy.activeLevel with
  | none => s
  | some level => (s.setLowV (putBit s.low.value cfg.chipSelectPin level)).emitLow 1

/-- `DeassertCs()` (R219): nothing under the Default policies. -/
def State.deassertCs (s : State) (cfg : SpiConfig) : State :=
  match cfg.chipSelectPolicy.activeLevel with
  | none => s
  | some _ => (s.setLowV (putBit s.low.value cfg.chipSelectPin cfg.chipSelectPolicy.idleLevel)).emitLow 1

/-- The command of `write` by mode (R218). -/
def spiWriteCommand (mode : SpiMode) (bytes : List Byte) : Except OpError Encoded :=
  match mode with
  | .mode0 => Encoder.bytesOutMsbFall bytes
  | .mode2 => Encoder.bytesOutMsbRise bytes

/-- The command of `readWrite` by mode (R218). -/
def spiReadWriteCommand (mode : SpiMode) (bytes : List Byte) : Except OpError Encoded :=
  match mode with
  | .mode0 => Encoder.bytesInOutMsbRiseInFallOut bytes
  | .mode2 => Encoder.bytesInOutMsbFallInRiseOut bytes

/-- The three fragments of a transfer (R222, R224, R226). -/
def State.spiTransfer (s : State) (cfg : SpiConfig) (cmd : Encoded) : State :=
  ((s.assertCs cfg).enqueue cmd).deassertCs cfg

/-- R222: the operation requires `SPI_CFG` present. -/
def whenConfigured (s : State) (body : SpiConfig → Result) : Result :=
  match s.spiCfg with
  | some cfg => body cfg
  | none => .refused .spiNotConfigured

/-- `Spi.write(bytes)` (R222): the command is encoded before chip-select moves; one flush; nothing is read. -/
def spiWrite (s : State) (bytes : List Byte) : Result :=
  whenSynced s (whenConfigured s fun cfg =>
    match spiWriteCommand cfg.mode bytes with
    | .error e => .next (s.raise e)
    | .ok cmd =>
      .next (finish (s.spiTransfer cfg cmd).flush fun _ t => t.reply .done))

/-- `Spi.readWrite(bytes)` (R224): as `write`, and the result is the slice of the transfer fragment. -/
def spiReadWrite (s : State) (bytes : List Byte) : Result :=
  whenSynced s (whenConfigured s fun cfg =>
    match spiReadWriteCommand cfg.mode bytes with
    | .error e => .next (s.raise e)
    | .ok cmd =>
      let t := s.spiTransfer cfg cmd
      .next (finish t.flush fun resp u =>
        u.reply (.bytes (slice t.rxexp resp (s.assertCs cfg).rxexp.length))))

end Sys2Proof.Machine
end

