-- ==== Sys2Proof/Machine/Requests.lean ====
section
/-! DEFINITION. One arm per request of the `OP` port (R44), and the lock every operation runs under (R60). -/

namespace Sys2Proof.Machine

/-- What a request does, the lock being held. -/
def perform (r : Request) (s : State) : Result :=
  match r with
  | .setBit r i => pinSetBit s r i
  | .unsetBit r i => pinUnsetBit s r i
  | .toggleBit r i => pinToggleBit s r i
  | .isSet r i => pinIsSet s r i
  | .mask r bits => pinMask s r bits
  | .fromByte r v => pinFromByte s r v
  | .toByte r => pinToByte s r
  | .pinWrite b => pinWrite s b
  | .pinRead b => pinRead s b
  | .wire i => exec i s
  | .encodeOnly i => encodeOp s i
  | .enqueue bytes expected => enqueueRaw s bytes expected
  | .flush => flushOp s
  | .syncHandshake => syncHandshake s
  | .i2cStart => i2cStart s
  | .i2cStop => i2cStop s
  | .i2cSendDeviceAddrAndCheckAck address readFlag => i2cSendDeviceAddrAndCheckAck s address readFlag
  | .i2cSendByteAndCheckAck byte => i2cSendByteAndCheckAck s byte
  | .i2cSendBytes bytes => i2cSendBytes s bytes
  | .i2cReceiveByte ackToSend => i2cReceiveByte s ackToSend
  | .spiConfigure cfg => spiConfigure s cfg
  | .spiWrite bytes => spiWrite s bytes
  | .spiReadWrite bytes => spiReadWrite s bytes
  | .bringUp c => bringUpOp s c

/-- The state an operation starts in: its request taken off the port, the lock held (R60). -/
def State.accept (s : State) (waiting : List Request) : State := { s with requests := waiting, lock := .held }

/-- The return of an operation: the lock is released, whether with a result or an error (R60, R241 to R244). -/
def release : Result → Result
  | .next t => .next { t with lock := .free }
  | .fault f => .fault f
  | .refused r => .refused r

/-- One operation of the caller, from the request at the `OP` port to its return. With the lock held a request waits (R60);
with no request the block does nothing, having no task of its own (R7). -/
def serve (s : State) : Result :=
  match s.lock with
  | .held => .fault .lockHeld
  | .free =>
    match s.requests with
    | [] => .next s
    | r :: waiting => release (perform r (s.accept waiting))

/-- The request that makes the next step run the wire command a table word stands for, with what its acceptance needs (log
entry 2): for a probe byte, its round of a handshake; for any other command, a block in service. A word that is no command is
presented as bytes, which `enqueue` refuses. -/
def State.presentWord (s : State) (nbits w : Nat) : State :=
  match decodeTableWord nbits w with
  | some i =>
    match roundOf i with
    | some r => { s with requests := .wire i :: s.requests, lock := .free, handshake := some r }
    | none => { s with requests := .wire i :: s.requests, lock := .free, sync := .synced, fault := none }
  | none => { s with requests := .enqueue (bytesOfNat (nbits / 8) w) 0 :: s.requests, lock := .free }

end Sys2Proof.Machine
end

