-- ==== Sys2Proof/Machine/Step.lean ====
section
/-! DEFINITION. One step: one operation of the caller, served from the `OP` port. -/

namespace Sys2Proof.Machine

/-- One step (R7, R60): the operation of the first request waiting at the `OP` port, whole, under the device lock. -/
def step (s : State) : Host.Outcome State Fault Refusal := serve s

/-- The state in which the next step runs the wire command of a table word (log entry 2). -/
def State.withFetchWord (s : State) (nbits w : Nat) : State := s.presentWord nbits w

end Sys2Proof.Machine
end

