-- ==== Sys2Proof/Machine/Clock.lean ====
section
/-! DEFINITION. The serial clock frequency (R280), a quantity derived from the shadows and the capabilities. No step reads
it (R281). -/

namespace Sys2Proof.Machine

/-- `BASE_CLOCK_HZ` (R280): 12 MHz without the prescaler, 60 MHz with the prescaler disabled; on a chip with the prescaler
whose state was never sent, the block does not know (R280), and the model names no value. -/
def baseClockHz (cap : Capabilities) (div5 : Option Bool) : Option Nat :=
  if cap.hasClockDivideBy5 then
    match div5 with
    | some false => some 60000000
    | some true => some 12000000
    | none => none
  else some 12000000

/-- `f = BASE_CLOCK_HZ / ((1 + divisor) * 2)` over the rationals (R11 (d), R280). -/
def clockHz (base : Nat) (divisor : BitVec 16) : Rat :=
  (base : Rat) / ((1 + (divisor.toNat : Rat)) * 2)

/-- The frequency of an instance (R34, R280), where the block knows both the divisor and the base. -/
def State.frequencyHz (s : State) : Option Rat :=
  match s.cfg.clkdiv, baseClockHz s.params.cap s.cfg.div5 with
  | some divisor, some base => some (clockHz base divisor)
  | _, _ => none

end Sys2Proof.Machine
end

