-- ==== Sys2Proof/Safety.lean ====
section
/-! DEFINITION. The terms claims are made in: the invariant of the block, the premises the spec puts on callers (R208, R246)
and on the downstream engine (R154), and the wire stream of a run (R8). No step reads any of them. -/

namespace Sys2Proof.Machine

/-! ## The wire stream -/

/-- The wire stream (R8): the concatenation of the `write` arguments, in call order. -/
def wireStream : List TransportCall → List Byte
  | [] => []
  | .write bytes :: rest => bytes ++ wireStream rest
  | .bytesAvailable :: rest => wireStream rest
  | .read _ :: rest => wireStream rest
  | .bringUp _ :: rest => wireStream rest

/-- Everything handed to the transport or waiting to be, in the order it was enqueued (R55). -/
def State.outbound (s : State) : List Byte := wireStream s.calls ++ s.txbuf

/-! ## Premises -/

/-- The number of response bytes a correct downstream engine produces for a command (R154). -/
def engineResponseBytes : Instr → Nat
  | .bitsInMsbRise _ => 1
  | .readBitsLow => 1
  | .readBitsHigh => 1
  | .bytesInOutMsbRiseInFallOut p => p.length
  | .bytesInOutMsbFallInRiseOut p => p.length
  | .syncProbe1 => 2
  | .syncProbe2 => 2
  | .bytesOutMsbFall _ => 0
  | .bitsOutMsbFall _ _ => 0
  | .setBitsLow _ _ => 0
  | .setBitsHigh _ _ => 0
  | .setClkDiv _ => 0
  | .sendImmediate => 0
  | .disClkDiv5 => 0
  | .en3Phase => 0
  | .loopbackOff => 0
  | .setDriveZero _ _ => 0
  | .bytesOutMsbRise _ => 0

/-- The column "in MPL's order" of R206. -/
def inMplOrder : I2cOp → Fsm → Bool
  | .start, .idle => true
  | .start, .addressPhase => true
  | .start, .dataPhase => true
  | .sendAddress, .started => true
  | .data, .addressPhase => true
  | .data, .dataPhase => true
  | .stop, .started => true
  | .stop, .addressPhase => true
  | .stop, .dataPhase => true
  | _, _ => false

/-- Well-ordered use (R208): every operation of the sequence is a "yes" row, from the state `f` on. -/
def wellOrdered : Fsm → List I2cOp → Bool
  | _, [] => true
  | f, op :: ops => inMplOrder op f && wellOrdered (fsmAfter op) ops

/-- The I2C operation a request is (R206). -/
def Request.i2cOp : Request → Option I2cOp
  | .i2cStart => some .start
  | .i2cStop => some .stop
  | .i2cSendDeviceAddrAndCheckAck _ _ => some .sendAddress
  | .i2cSendByteAndCheckAck _ => some .data
  | .i2cSendBytes _ => some .data
  | .i2cReceiveByte _ => some .data
  | _ => none

/-- The pure pin-register operations (R100 to R108). -/
def Request.isPinOperation : Request → Bool
  | .setBit _ _ => true
  | .unsetBit _ _ => true
  | .toggleBit _ _ => true
  | .isSet _ _ => true
  | .mask _ _ => true
  | .fromByte _ _ => true
  | .toByte _ => true
  | _ => false

/-- The requests that are one probe round (R177). -/
def Request.isProbeRound : Request → Bool
  | .wire i => i.isProbe
  | _ => false

/-- The transport's own bring-up calls (R262). -/
def Request.isBringUp : Request → Bool
  | .bringUp _ => true
  | _ => false

/-- The operations that require `SYNC = Synced` (R246): all but the handshake, the pure pin-register operations
and the transport's bring-up calls. -/
def Request.needsSync (r : Request) : Bool :=
  !(r.isPinOperation || r.isBringUp || r == .syncHandshake)

/-- The pin register a pin operation names (R100). -/
def Request.pinReg : Request → Option PinReg
  | .setBit r _ => some r
  | .unsetBit r _ => some r
  | .toggleBit r _ => some r
  | .isSet r _ => some r
  | .mask r _ => some r
  | .fromByte r _ => some r
  | .toByte r => some r
  | _ => none

/-- The requests of the instance's interface (R79, R152, R160, R222): those that can be formed. -/
def Request.formed (s : State) : Request → Bool
  | .wire i => !i.isProbe && i.available s.params.cap
  | .encodeOnly i => !i.isProbe && i.available s.params.cap
  | .enqueue bytes _ =>
    match decodeStream bytes with
    | none => false
    | some is => !is.isEmpty && is.all fun i => !i.isProbe && i.available s.params.cap
  | .spiWrite _ => s.spiCfg.isSome
  | .spiReadWrite _ => s.spiCfg.isSome
  | _ => true

/-- R39 as a premise on the caller (log entry 13), which R216 does not check: once there is a record, `SpiConfigure` is
requested with that record only, as when the pins are set up again after a fatal error (R264). -/
def Request.configuresOnce (s : State) : Request → Bool
  | .spiConfigure cfg => s.spiCfg.isNone || s.spiCfg == some cfg
  | _ => true

/-- The fatal class of an error (R235), if it is fatal. -/
def OpError.fatal : OpError → Option FatalError
  | .rangeError _ => none
  | .encodingError _ => none
  | .syncError _ _ => some .syncError
  | .transportError _ => some .transportError

/-- One of the two fatal errors was returned. -/
def OpResult.isFatal : OpResult → Bool
  | .error e => e.fatal.isSome
  | _ => false

/-! ## Words of the claims -/

/-- The length of the wire command a byte sequence begins with, by R85: from the opcode alone, or from the opcode and the
two length bytes; none for a byte that is no opcode of R83. -/
def commandLength : List Byte → Option Nat
  | [] => none
  | op :: operands =>
    if op ∈ [0x81#8, 0x83#8, 0x87#8, 0x85#8, 0x8A#8, 0x8C#8, 0xAA#8, 0xAB#8] then some 1
    else if op = 0x22#8 then some 2
    else if op ∈ [0x80#8, 0x82#8, 0x86#8, 0x9E#8, 0x13#8] then some 3
    else if op ∈ [0x11#8, 0x10#8, 0x31#8, 0x34#8] then
      match operands with
      | lenL :: lenH :: _ => some (3 + 1 + lenL.toNat + 256 * lenH.toNat)
      | _ => none
    else none

/-- One fragment appended and nothing else changed but the reply (R160). -/
def State.withFragment (s : State) (bytes : List Byte) (expected : Nat) : State :=
  { s with txbuf := s.txbuf ++ bytes, rxexp := s.rxexp ++ [expected], results := s.results ++ [.done] }

/-- An error returned to the caller and nothing else changed (R241, R242). -/
def State.withError (s : State) (e : OpError) : State := { s with results := s.results ++ [.error e] }

/-- The state R243 and R244 say a fatal error leaves, with the error returned to the caller. -/
def State.withFatal (s : State) (f : FatalError) (e : OpError) : State :=
  { s with
    txbuf := [], rxexp := [], sync := .unsynced, fault := some f, fsm := .idle, cfg := Shadow.unknown
    handshake := none
    results := s.results ++ [.error e] }

/-- The bytes that send `b` and clock in its acknowledge (R193), from the bank `LOW` registers on entry. -/
def ackedSend (low : RegisterPair) (sda : Nat) (b : Byte) : List Byte :=
  [0x80#8, low.value, setBit low.direction sda, 0x11#8, 0x00#8, 0x00#8, b,
    0x80#8, low.value, unsetBit low.direction sda, 0x22#8, 0x00#8]

/-- The transport serves a flush of `out` that expects `n` bytes with the response `resp` (R162): it reports every byte
written and, for `n > 0`, returns `n` bytes. The answers after those are `rest`. -/
def State.Served (s : State) (out : List Byte) (n : Nat) (resp : List Byte) (rest : List Answer) : Prop :=
  if n = 0 then resp = [] ∧ ∃ w, s.answers = w :: rest ∧ w.ok = true ∧ w.count = out.length
  else ∃ w r, s.answers = w :: r :: rest ∧ w.ok = true ∧ w.count = out.length ∧ r.ok = true ∧
    r.bytes.take n = resp ∧ resp.length = n

/-- The transport calls of a flush of `out` that expects `n` bytes (R162, R164 (b)). -/
def flushCalls (out : List Byte) (n : Nat) : List TransportCall :=
  .write out :: if n = 0 then [] else [.read n]

/-- The transport serves a probe round (R177): the byte is reported written, zeros come before a count within the poll
limit, and that many bytes `reply` are returned. -/
def servedProbe (limit : Nat) (zeros : List Answer) (reply : List Byte) (answers rest : List Answer) : Prop :=
  (∀ a ∈ zeros, a.ok = true ∧ a.count = 0) ∧ zeros.length < limit ∧ reply ≠ [] ∧
  ∃ w p r, answers = w :: (zeros ++ p :: r :: rest) ∧ w.ok = true ∧ w.count = 1 ∧ p.ok = true ∧
    p.count = reply.length ∧ r.ok = true ∧ r.bytes.take p.count = reply

/-- The transport took the byte of a probe round and reported nothing so far (R177): the write is answered by `w`, the polls
by `zeros`. -/
def silentSoFar (w : Answer) (zeros : List Answer) : Prop :=
  w.ok = true ∧ w.count = 1 ∧ ∀ a ∈ zeros, a.ok = true ∧ a.count = 0

/-- The transport calls of a probe round of `x` that polls `n` times and reads `k` bytes (R177). -/
def probeCalls (x : Byte) (n k : Nat) : List TransportCall :=
  .write [x] :: (List.replicate n .bytesAvailable ++ [.read k])

/-- The operations that end with a flush (R166). -/
def Request.flushes : Request → Bool
  | .pinRead _ => true
  | .flush => true
  | .i2cStop => true
  | .i2cSendDeviceAddrAndCheckAck _ _ => true
  | .i2cSendByteAndCheckAck _ => true
  | .i2cSendBytes _ => true
  | .i2cReceiveByte _ => true
  | .spiWrite _ => true
  | .spiReadWrite _ => true
  | _ => false

/-- The number of response bytes the fragments of an operation that flushes expect, beside those already pending (R111, R162,
R192 to R200, R222, R224). -/
def Request.ownResponse : Request → Nat
  | .pinRead _ => 1
  | .i2cSendDeviceAddrAndCheckAck _ _ => 1
  | .i2cSendByteAndCheckAck _ => 1
  | .i2cSendBytes bytes => bytes.length
  | .i2cReceiveByte _ => 1
  | .spiReadWrite bytes => bytes.length
  | _ => 0

/-- Bank `LOW` with the two I2C lines outputs and high (R192). -/
def RegisterPair.bothHigh (low : RegisterPair) (p : Params) : RegisterPair where
  value := setBit (setBit low.value p.sclBit) p.sdaOutBit
  direction := setBit (setBit low.direction p.sclBit) p.sdaOutBit

/-- Bank `LOW` with the I2C data pin an input (R188). -/
def RegisterPair.released (low : RegisterPair) (p : Params) : RegisterPair :=
  { low with direction := unsetBit low.direction p.sdaOutBit }

/-- Bank `LOW` with chip-select at its idle level under an automatic policy; untouched under a Default policy (R217, R219). -/
def RegisterPair.deselected (low : RegisterPair) : Option SpiConfig → RegisterPair
  | none => low
  | some cfg =>
    match cfg.chipSelectPolicy with
    | .activeLow => { low with value := setBit low.value cfg.chipSelectPin }
    | .activeHigh => { low with value := unsetBit low.value cfg.chipSelectPin }
    | .defaultLow => low
    | .defaultHigh => low

/-- The operations that flush and have nothing of their own to send (R162, R198; `Stop` only with a hold count of 0, which
the spec rules out). -/
def Request.sendsNothing (p : Params) : Request → Bool
  | .flush => true
  | .i2cSendBytes bytes => bytes.isEmpty
  | .i2cStop => p.holdN == 0
  | _ => false

/-- Bank `LOW` as an operation that can fail with the transport has written it when it calls the transport, from the rules: the
two lines high after `Stop` (R192), the data pin released after a send or a receive (R188, R193, R200), chip-select at its idle
level after a transfer under an automatic policy (R219, R222, R224); any other writes no pin register. -/
def Request.lowWritten (s : State) : Request → RegisterPair
  | .i2cStop => s.low.bothHigh s.params
  | .i2cSendDeviceAddrAndCheckAck _ _ => s.low.released s.params
  | .i2cSendByteAndCheckAck _ => s.low.released s.params
  | .i2cSendBytes bytes => if bytes = [] then s.low else s.low.released s.params
  | .i2cReceiveByte _ => s.low.released s.params
  | .spiWrite _ => s.low.deselected s.spiCfg
  | .spiReadWrite _ => s.low.deselected s.spiCfg
  | _ => s.low

/-- The operations of the SPI personality (R215). -/
def Request.isSpi : Request → Bool
  | .spiConfigure _ => true
  | .spiWrite _ => true
  | .spiReadWrite _ => true
  | _ => false

/-- The requests that append what the caller names: a wire command, or bytes (R160, R277). -/
def Request.isDirectEnqueue : Request → Bool
  | .wire _ => true
  | .enqueue _ _ => true
  | _ => false

/-! ## The invariant -/

/-- A pending command: one of the instance's interface, with operands in range, and no probe byte (R56, R86, R152). -/
def pendable (cap : Capabilities) (i : Instr) : Bool :=
  i.wellFormed && i.available cap && !i.isProbe

/-- What holds of the block whenever no operation is running. -/
structure Inv (s : State) : Prop where
  /-- The lock is free between operations (R60). -/
  lock_free : s.lock = .free
  /-- No handshake is running (R61: it is one operation). -/
  no_handshake : s.handshake = none
  /-- `SYNC = Synced` implies `FAULT = None` (R161). -/
  synced_no_fault : s.sync = .synced → s.fault = none
  /-- Nothing is pending while the block is out of service (R243, R244, R246). -/
  unsynced_empty : s.sync = .unsynced → s.txbuf = []
  /-- `Stopped` is never seen (R207). -/
  never_stopped : s.fsm ≠ .stopped
  /-- `TXBUF` and `RXEXP` are created and cleared together (R26). -/
  buffers_together : s.txbuf = [] ↔ s.rxexp = []
  /-- `TXBUF` holds whole commands of the opcode map (R56, R86). -/
  whole_commands : ∃ is, decodeStream s.txbuf = some is ∧ is.all (pendable s.params.cap) = true
  /-- `chipSelectPin` is a bit index 0 to 7 (R39). -/
  spi_pin_in_range : ∀ cfg, s.spiCfg = some cfg → cfg.chipSelectPin ≤ 7
  /-- The shadows move one way (R35, R36, R37). -/
  shadows_one_way : s.cfg.div5 ≠ some true ∧ s.cfg.phase3 ≠ some false ∧ s.cfg.loopback ≠ some true
  /-- A shadow whose capability is absent holds nothing (R35, R36, R38). -/
  shadows_gated : (s.params.cap.hasClockDivideBy5 = false → s.cfg.div5 = none) ∧
    (s.params.cap.hasThreePhaseClocking = false → s.cfg.phase3 = none) ∧
    (s.params.cap.hasDriveOn0TristateOn1 = false → s.cfg.drive0 = none)

/-- R166: every pending fragment expects no response. -/
def State.nothingExpected (s : State) : Prop := ∀ e ∈ s.rxexp, e = 0

end Sys2Proof.Machine
end

