-- ==== Sys2Proof/Certificates/Slice0/Obligations.lean ====
section
/-! DEFINITION. The statements about the model, each with the rule or section of spec/ it rests on. -/

open Sys2Proof Sys2Proof.Machine

/-! ## Encoding -/

/-- The byte patterns of 30_encoding.md and 95_test_vectors.md decode to the commands they stand for (R83). -/
def Obligations.SpecWordsDecodeToTheirCommands : Prop :=
  decode [0x11#8, 0x01#8, 0x00#8, 0x0A#8, 0x01#8] = .ok (.bytesOutMsbFall [0x0A#8, 0x01#8], []) ∧
  decode [0x13#8, 0x00#8, 0xFF#8] = .ok (.bitsOutMsbFall 1 0xFF#8, []) ∧
  decode [0x22#8, 0x07#8] = .ok (.bitsInMsbRise 8, []) ∧
  decode [0x80#8, 0x03#8, 0x01#8] = .ok (.setBitsLow 0x03#8 0x01#8, []) ∧
  decode [0x83#8] = .ok (.readBitsHigh, []) ∧
  decode [0x86#8, 0x34#8, 0x12#8] = .ok (.setClkDiv 0x1234#16, []) ∧
  decode [0x9E#8, 0x03#8, 0x00#8] = .ok (.setDriveZero 0x03#8 0x00#8, []) ∧
  decode [0x34#8, 0x01#8, 0x00#8, 0xDE#8, 0xAD#8] = .ok (.bytesInOutMsbFallInRiseOut [0xDE#8, 0xAD#8], []) ∧
  decode [0xAA#8] = .ok (.syncProbe1, []) ∧
  decode [0x4B#8, 0x00#8] = .error (.unknownOpcode 0x4B#8)

/-- Decoding the encoding of any well-formed command gives the command back, every operand at every value, and leaves the
bytes after it (R70 to R81). -/
def Obligations.DecodeInvertsEncode : Prop :=
  ∀ (i : Instr) (rest : List Byte), i.wellFormed = true → decode (encode i ++ rest) = .ok (i, rest)

/-- Whatever decodes is well formed, and its encoding is the bytes it was read from (R70 to R81). -/
def Obligations.DecodedCommandsReencode : Prop :=
  ∀ (bs rest : List Byte) (i : Instr), decode bs = .ok (i, rest) → i.wellFormed = true ∧ bs = encode i ++ rest

/-- A byte sequence is a sequence of whole commands exactly when it is the concatenation of the encodings of well-formed
ones, and then it decodes to them (R56, R85). -/
def Obligations.StreamsOfWholeCommandsDecode : Prop :=
  ∀ (bs : List Byte) (is : List Instr),
    decodeStream bs = some is ↔ (is.all Instr.wellFormed = true ∧ bs = is.flatMap encode)

/-- The length of a command follows from its opcode, or its opcode and length bytes, as R85 lists it; a byte that is no
opcode, or a command that runs past the end, is rejected. The one further rejection is a bit-count field above 7, which is
the model's reading of R81 (log entry 25). -/
def Obligations.CommandLengthFollowsFromTheOpcode : Prop :=
  (∀ (bs rest : List Byte) (i : Instr), decode bs = .ok (i, rest) →
    ∃ n, commandLength bs = some n ∧ n ≤ bs.length ∧ rest = bs.drop n) ∧
  (∀ bs : List Byte, (commandLength bs = none ∨ ∃ n, commandLength bs = some n ∧ bs.length < n) →
    ∃ e, decode bs = .error e) ∧
  (∀ (bs : List Byte) (n : Nat), commandLength bs = some n → n ≤ bs.length →
    (∃ i, decode bs = .ok (i, bs.drop n)) ∨
    (∃ op field, decode bs = .error (.badBitCount op field) ∧ 8 ≤ field.toNat))

/-- R121: the four byte-oriented encoder functions take 1 to 65536 bytes and encode `L - 1` low byte first; `L = 0` and
`L > 65536` fail with `EncodingError`. -/
def Obligations.ByteLengthRule : Prop :=
  ∀ p : List Byte,
    (p.length = 0 ∨ 65536 < p.length →
      Encoder.bytesOutMsbFall p = .error (.encodingError p.length) ∧
      Encoder.bytesOutMsbRise p = .error (.encodingError p.length) ∧
      Encoder.bytesInOutMsbRiseInFallOut p = .error (.encodingError p.length) ∧
      Encoder.bytesInOutMsbFallInRiseOut p = .error (.encodingError p.length)) ∧
    (1 ≤ p.length → p.length ≤ 65536 → ∃ lenL lenH : Byte, lenL.toNat + 256 * lenH.toNat = p.length - 1 ∧
      Encoder.bytesOutMsbFall p = .ok ([0x11#8, lenL, lenH] ++ p, 0) ∧
      Encoder.bytesOutMsbRise p = .ok ([Config.opBytesOutMsbRise, lenL, lenH] ++ p, 0) ∧
      Encoder.bytesInOutMsbRiseInFallOut p = .ok ([Config.opBytesInOutMsbRiseInFallOut, lenL, lenH] ++ p, p.length) ∧
      Encoder.bytesInOutMsbFallInRiseOut p = .ok ([Config.opBytesInOutMsbFallInRiseOut, lenL, lenH] ++ p, p.length))

/-- R122: the two bit-oriented encoder functions take 1 to 8 bits and encode `n - 1` in the one byte after the opcode;
`n = 0` and `n > 8` fail with `EncodingError`. -/
def Obligations.BitLengthRule : Prop :=
  ∀ (n : Nat) (data : Byte),
    (n = 0 ∨ 8 < n →
      Encoder.bitsOutMsbFall n data = .error (.encodingError n) ∧
      Encoder.bitsInMsbRise n = .error (.encodingError n)) ∧
    (1 ≤ n → n ≤ 8 → ∃ nbits : Byte, nbits.toNat = n - 1 ∧
      (∃ operands, Encoder.bitsOutMsbFall n data = .ok ([0x13#8, nbits] ++ operands, 0)) ∧
      Encoder.bitsInMsbRise n = .ok ([0x22#8, nbits], 1))

/-- The encoder functions of section 41 give the bytes of the formats of section 30, with the response length R154 says a
correct engine produces; out of range they give `EncodingError`; the probe bytes have none. -/
def Obligations.EncoderFunctionsAgreeWithTheFormats : Prop :=
  ∀ i : Instr,
    (i.isProbe = true → encoderOf i = none) ∧
    (i.isProbe = false → i.wellFormed = true → encoderOf i = some (.ok (encode i, engineResponseBytes i))) ∧
    (i.isProbe = false → i.wellFormed = false → ∃ n, encoderOf i = some (.error (.encodingError n)))

/-! ## The wire commands -/

/-- The four byte-oriented commands: with the block in service and a payload in range each appends its bytes as one
fragment, with its expected response length, and changes nothing else; out of range it is an `EncodingError` and nothing
changes (R124, R149, R150, R151). -/
def Obligations.ByteCommandsAppendTheirBytes : Prop :=
  ∀ (s : State) (p : List Byte), s.sync = .synced →
    (1 ≤ p.length → p.length ≤ 65536 →
      exec (.bytesOutMsbFall p) s =
        .next (s.withFragment ([0x11#8, lo8 (p.length - 1), hi8 (p.length - 1)] ++ p) 0) ∧
      exec (.bytesOutMsbRise p) s =
        .next (s.withFragment ([0x10#8, lo8 (p.length - 1), hi8 (p.length - 1)] ++ p) 0) ∧
      exec (.bytesInOutMsbRiseInFallOut p) s =
        .next (s.withFragment ([0x31#8, lo8 (p.length - 1), hi8 (p.length - 1)] ++ p) p.length) ∧
      exec (.bytesInOutMsbFallInRiseOut p) s =
        .next (s.withFragment ([0x34#8, lo8 (p.length - 1), hi8 (p.length - 1)] ++ p) p.length)) ∧
    (p.length = 0 ∨ 65536 < p.length →
      exec (.bytesOutMsbFall p) s = .next (s.withError (.encodingError p.length)) ∧
      exec (.bytesOutMsbRise p) s = .next (s.withError (.encodingError p.length)) ∧
      exec (.bytesInOutMsbRiseInFallOut p) s = .next (s.withError (.encodingError p.length)) ∧
      exec (.bytesInOutMsbFallInRiseOut p) s = .next (s.withError (.encodingError p.length)))

/-- The two bit-oriented commands: with a count in range each appends its bytes as one fragment and changes nothing else;
out of range it is an `EncodingError` and nothing changes (R126, R128). -/
def Obligations.BitCommandsAppendTheirBytes : Prop :=
  ∀ (s : State) (n : Nat) (data : Byte), s.sync = .synced →
    (1 ≤ n → n ≤ 8 →
      exec (.bitsOutMsbFall n data) s = .next (s.withFragment [0x13#8, BitVec.ofNat 8 (n - 1), data] 0) ∧
      exec (.bitsInMsbRise n) s = .next (s.withFragment [0x22#8, BitVec.ofNat 8 (n - 1)] 1)) ∧
    (n = 0 ∨ 8 < n →
      exec (.bitsOutMsbFall n data) s = .next (s.withError (.encodingError n)) ∧
      exec (.bitsInMsbRise n) s = .next (s.withError (.encodingError n)))

/-- The pin bank commands append their bytes as one fragment and change nothing else, no pin register either (R130, R132,
R134, R136). -/
def Obligations.BankCommandsAppendTheirBytes : Prop :=
  ∀ (s : State) (value direction : Byte), s.sync = .synced →
    exec (.setBitsLow value direction) s = .next (s.withFragment [0x80#8, value, direction] 0) ∧
    exec (.setBitsHigh value direction) s = .next (s.withFragment [0x82#8, value, direction] 0) ∧
    exec .readBitsLow s = .next (s.withFragment [0x81#8] 1) ∧
    exec .readBitsHigh s = .next (s.withFragment [0x83#8] 1)

/-- `SendImmediate` appends its byte, expects no response, writes no state and does not flush (R138). -/
def Obligations.SendImmediateAppendsItsByte : Prop :=
  ∀ s : State, s.sync = .synced → exec .sendImmediate s = .next (s.withFragment [0x87#8] 0)

/-- `SetClockDivisor` and `DisconnectLoopback` append their bytes and write their own shadow, at the enqueue, and nothing
else (R123, R140, R142). -/
def Obligations.ClockAndLoopbackWriteTheirShadows : Prop :=
  ∀ (s : State) (divisor : BitVec 16), s.sync = .synced →
    exec (.setClkDiv divisor) s =
      .next (State.withFragment { s with cfg := { s.cfg with clkdiv := some divisor } }
        [0x86#8, divisor.extractLsb' 0 8, divisor.extractLsb' 8 8] 0) ∧
    exec .loopbackOff s =
      .next (State.withFragment { s with cfg := { s.cfg with loopback := some false } } [0x85#8] 0)

/-- The three gated commands append their bytes and write their own shadow on an instance with the capability (R144, R146,
R148); on one without it the request is refused (R152). -/
def Obligations.GatedCommandsNeedTheirCapability : Prop :=
  ∀ (s : State) (lowMask highMask : Byte), s.sync = .synced →
    (s.params.cap.hasClockDivideBy5 = true → exec .disClkDiv5 s =
      .next (State.withFragment { s with cfg := { s.cfg with div5 := some false } } [0x8A#8] 0)) ∧
    (s.params.cap.hasThreePhaseClocking = true → exec .en3Phase s =
      .next (State.withFragment { s with cfg := { s.cfg with phase3 := some true } } [0x8C#8] 0)) ∧
    (s.params.cap.hasDriveOn0TristateOn1 = true → exec (.setDriveZero lowMask highMask) s =
      .next (State.withFragment { s with cfg := { s.cfg with drive0 := some (lowMask, highMask) } }
        [0x9E#8, lowMask, highMask] 0)) ∧
    (s.params.cap.hasClockDivideBy5 = false → exec .disClkDiv5 s = .refused .capabilityAbsent) ∧
    (s.params.cap.hasThreePhaseClocking = false → exec .en3Phase s = .refused .capabilityAbsent) ∧
    (s.params.cap.hasDriveOn0TristateOn1 = false →
      exec (.setDriveZero lowMask highMask) s = .refused .capabilityAbsent)

/-- A probe byte is sent in its own round of a running handshake and nowhere else (R79, R87). There the round, when it finds
`[0xFA, x]` in the reply, completes: it has written the byte, polled until the count was not 0 and read that many bytes (R176,
R177); after the first round the second is next, after the second the handshake has succeeded (R179). That the state holds
where a handshake stands, and the name of the refusal, are the model's choice (log entry 10). -/
def Obligations.ProbeRoundCompletesOnItsEcho : Prop :=
  (∀ (s : State) (zeros rest : List Answer) (before after : List Byte),
    (s.handshake = some .first →
      servedProbe s.params.syncPollLimit zeros (before ++ [0xFA#8, 0xAA#8] ++ after) s.answers rest →
      exec .syncProbe1 s = .next { s with
        handshake := some .second, answers := rest
        calls := s.calls ++ probeCalls 0xAA#8 (zeros.length + 1) (before.length + 2 + after.length) }) ∧
    (s.handshake = some .second →
      servedProbe s.params.syncPollLimit zeros (before ++ [0xFA#8, 0xAB#8] ++ after) s.answers rest →
      exec .syncProbe2 s = .next { s with
        sync := .synced, fault := none, handshake := none, answers := rest
        calls := s.calls ++ probeCalls 0xAB#8 (zeros.length + 1) (before.length + 2 + after.length)
        results := s.results ++ [.done] })) ∧
  (∀ s : State, s.sync = .synced →
    (s.handshake ≠ some .first → exec .syncProbe1 s = .refused .outsideHandshake) ∧
    (s.handshake ≠ some .second → exec .syncProbe2 s = .refused .outsideHandshake))

/-- The other ends of a probe round, for each of the two rounds of a handshake (log entry 10). A reply without `[0xFA, x]` as
a contiguous subsequence is a `SyncError` that records the probe byte and the bytes read, and no byte within the poll limit is
one that records none (R177, R178, R238). A write that fails or reports another count than 1, a poll that fails, and a read
that fails or returns fewer bytes than were reported are each a `TransportError` that names the call, and no later call is
made (R177, R239). Each leaves the fatal state (R243, R244). -/
def Obligations.ProbeRoundWithoutItsEchoIsFatal : Prop :=
  ∀ (s : State) (i : Instr) (x : Byte),
    (i = .syncProbe1 ∧ x = 0xAA#8 ∧ s.handshake = some .first) ∨
      (i = .syncProbe2 ∧ x = 0xAB#8 ∧ s.handshake = some .second) →
    (∀ (zeros rest : List Answer) (reply : List Byte),
      servedProbe s.params.syncPollLimit zeros reply s.answers rest →
      (¬ ∃ before after, reply = before ++ [0xFA#8, x] ++ after) →
      exec i s = .next (State.withFatal { s with
        answers := rest, calls := s.calls ++ probeCalls x (zeros.length + 1) reply.length }
          .syncError (.syncError x (some reply)))) ∧
    (∀ (w : Answer) (rest : List Answer), s.answers = w :: rest → (w.ok = false ∨ w.count ≠ 1) →
      exec i s = .next (State.withFatal { s with answers := rest, calls := s.calls ++ [.write [x]] }
        .transportError (.transportError .write))) ∧
    (∀ (w : Answer) (zeros rest : List Answer), s.answers = w :: (zeros ++ rest) → silentSoFar w zeros →
      (zeros.length = s.params.syncPollLimit →
        exec i s = .next (State.withFatal { s with
          answers := rest, calls := s.calls ++ (.write [x] :: List.replicate zeros.length .bytesAvailable) }
            .syncError (.syncError x none))) ∧
      (zeros.length < s.params.syncPollLimit → ∀ (p : Answer) (rest' : List Answer), rest = p :: rest' →
        (p.ok = false →
          exec i s = .next (State.withFatal { s with
            answers := rest', calls := s.calls ++ (.write [x] :: List.replicate (zeros.length + 1) .bytesAvailable) }
              .transportError (.transportError .status))) ∧
        (p.ok = true → p.count ≠ 0 → ∀ (r : Answer) (rest'' : List Answer), rest' = r :: rest'' →
          (r.ok = false ∨ r.bytes.length < p.count) →
          exec i s = .next (State.withFatal { s with
            answers := rest'', calls := s.calls ++ probeCalls x (zeros.length + 1) p.count }
              .transportError (.transportError .read)))))

/-! ## Pin register operations -/

/-- R101 to R104: with an index 0 to 7 the operations write and return the register as the pseudocode says, and `is_set`
returns the bit; with an index above 7 each is a `RangeError` before any change. Nothing else changes, and `SYNC` is not
looked at. -/
def Obligations.BitOperationsActOnOneRegister : Prop :=
  ∀ (s : State) (r : PinReg) (i : Nat),
    (i ≤ 7 →
      perform (.setBit r i) s = .next { s.setPin r (s.pin r ||| (1#8 <<< i)) with
        results := s.results ++ [.byte (s.pin r ||| (1#8 <<< i))] } ∧
      perform (.unsetBit r i) s = .next { s.setPin r (s.pin r &&& (0xFF#8 ^^^ (1#8 <<< i))) with
        results := s.results ++ [.byte (s.pin r &&& (0xFF#8 ^^^ (1#8 <<< i)))] } ∧
      perform (.toggleBit r i) s = .next { s.setPin r (s.pin r ^^^ (1#8 <<< i)) with
        results := s.results ++ [.byte (s.pin r ^^^ (1#8 <<< i))] } ∧
      perform (.isSet r i) s = .next { s with results := s.results ++ [.flag ((s.pin r).getLsbD i)] }) ∧
    (7 < i →
      perform (.setBit r i) s = .next (s.withError (.rangeError i)) ∧
      perform (.unsetBit r i) s = .next (s.withError (.rangeError i)) ∧
      perform (.toggleBit r i) s = .next (s.withError (.rangeError i)) ∧
      perform (.isSet r i) s = .next (s.withError (.rangeError i)))

/-- R109: a set bit is set, an unset bit is not, the other bits are unchanged, and two toggles restore the register. -/
def Obligations.BitOperationLaws : Prop :=
  ∀ (r : Byte) (i j : Nat), i ≤ 7 →
    isSet (setBit r i) i = true ∧ isSet (unsetBit r i) i = false ∧ toggleBit (toggleBit r i) i = r ∧
    (j ≠ i → isSet (setBit r i) j = isSet r j ∧ isSet (unsetBit r i) j = isSet r j ∧
      isSet (toggleBit r i) j = isSet r j)

/-- R105: `mask` gives element `k` of `N` to register bit `N - 1 - k`; `None` and the bits from `N` on are left; the new
value is written and returned. More than 8 elements are a `RangeError` before any change (R106 (a)). -/
def Obligations.MaskGivesTheLastElementToBitZero : Prop :=
  ∀ (s : State) (r : PinReg) (bits : List (Option Bool)),
    (bits.length ≤ 8 → ∃ v : Byte,
      perform (.mask r bits) s = .next { s.setPin r v with results := s.results ++ [.byte v] } ∧
      (∀ k, (h : k < bits.length) → v.getLsbD (bits.length - 1 - k) =
        (bits[k]).getD ((s.pin r).getLsbD (bits.length - 1 - k))) ∧
      (∀ j, bits.length ≤ j → v.getLsbD j = (s.pin r).getLsbD j)) ∧
    (8 < bits.length → perform (.mask r bits) s = .next (s.withError (.rangeError bits.length)))

/-- R107, R108: `from_byte` writes and returns any byte, `to_byte` returns the register and writes nothing, and `to_byte`
after `from_byte` returns the byte; a write of one of the four registers leaves the other three (R20). -/
def Obligations.ByteConversionsReadBackAndDoNotAlias : Prop :=
  ∀ (s : State) (r r' : PinReg) (v : Byte),
    perform (.fromByte r v) s = .next { s.setPin r v with results := s.results ++ [.byte v] } ∧
    perform (.toByte r) s = .next { s with results := s.results ++ [.byte (s.pin r)] } ∧
    (s.setPin r v).pin r = v ∧
    (r' ≠ r → (s.setPin r v).pin r' = s.pin r')

/-- R110: `PinWrite(b)` appends the set command of the bank with the bank's two registers, does not flush, and changes no
pin register. -/
def Obligations.PinWriteAppendsTheBankRegisters : Prop :=
  ∀ s : State, s.sync = .synced →
    perform (.pinWrite .low) s = .next (s.withFragment [0x80#8, s.low.value, s.low.direction] 0) ∧
    perform (.pinWrite .high) s = .next (s.withFragment [0x82#8, s.high.value, s.high.direction] 0)

/-- R111: `PinRead(b)` sends the read command and "send immediate" after anything pending, in one flush, and returns the
last byte of the response; no pin register changes. -/
def Obligations.PinReadReturnsTheLastResponseByte : Prop :=
  ∀ (s : State) (b : Bank) (earlier : List Byte) (level : Byte) (rest : List Answer), s.sync = .synced →
    earlier.length = s.rxexp.sum →
    let out := s.txbuf ++ [if b = .low then 0x81#8 else 0x83#8, 0x87#8]
    s.Served out (s.rxexp.sum + 1) (earlier ++ [level]) rest →
    perform (.pinRead b) s = .next { s with
      txbuf := [], rxexp := [], answers := rest
      calls := s.calls ++ [.write out, .read (s.rxexp.sum + 1)]
      results := s.results ++ [.byte level] }

/-! ## The buffer -/

/-- R160: a direct `enqueue` of an EncodedCommand appends the bytes and one expected length, and makes no transport call. That
it also takes several whole commands of the instance's interface joined together, and writes in order the shadows of the
configuration commands among them, is the model's choice (log entry 12). The shadows of one command are those its own
operation leaves; the five configuration commands write theirs (R140, R142, R144, R146, R148). -/
def Obligations.DirectEnqueueAppendsOneFragment : Prop :=
  (∀ (s : State) (is : List Instr) (expected : Nat), s.sync = .synced → is ≠ [] →
    is.all (pendable s.params.cap) = true →
    perform (.enqueue (is.flatMap encode) expected) s =
      .next (State.withFragment { s with cfg := is.foldl Shadow.record s.cfg } (is.flatMap encode) expected)) ∧
  (∀ (s : State) (i : Instr) (expected : Nat), s.sync = .synced → pendable s.params.cap i = true →
    ∃ t, exec i s = .next t ∧ t.cfg = s.cfg.record i ∧
      perform (.enqueue (encode i) expected) s =
        .next (State.withFragment { s with cfg := t.cfg } (encode i) expected)) ∧
  (∀ (c : Shadow) (divisor : BitVec 16) (lowMask highMask : Byte),
    c.record (.setClkDiv divisor) = { c with clkdiv := some divisor } ∧
    c.record .disClkDiv5 = { c with div5 := some false } ∧
    c.record .en3Phase = { c with phase3 := some true } ∧
    c.record .loopbackOff = { c with loopback := some false } ∧
    c.record (.setDriveZero lowMask highMask) = { c with drive0 := some (lowMask, highMask) })

/-- A call of an encoder function returns the command and its expected response length, or for operands out of range the
`EncodingError` of the function, and changes nothing else (R120, R121, R122); it is in the interface under the capability of
its command (R152). That the call needs `SYNC = Synced` is log entry 11. -/
def Obligations.EncoderCallChangesNothing : Prop :=
  ∀ (s : State) (i : Instr), s.sync = .synced → i.isProbe = false → i.available s.params.cap = true →
    (i.wellFormed = true → perform (.encodeOnly i) s =
      .next { s with results := s.results ++ [.encoded (encode i) (engineResponseBytes i)] }) ∧
    (i.wellFormed = false → ∃ n, encoderOf i = some (.error (.encodingError n)) ∧
      perform (.encodeOnly i) s = .next (s.withError (.encodingError n)))

/-- R162, R164 (a), (b), R165: a flush makes no call for an empty buffer; else exactly one write of the whole buffer and,
if a response is expected, exactly one read of the sum; on success both buffers are empty and the response is returned; a
failed or short write ends it before the read, and a failed or short read is an error as well, each a `TransportError` with
the state of R244. The second clause is about every operation that ends with a flush (R111, R192, R194, R196, R198, R200, R222,
R224). One that ends in an `EncodingError` made no call, and neither did one with nothing pending and nothing of its own to
send. Any other makes one write that begins with what was pending, and, if a response is expected, one read of the pending sum
and its own response bytes; a call that fails or comes out short is its `TransportError`, and nothing else is one. Which bytes
follow the pending ones is said by the statements about the single operations. -/
def Obligations.FlushWritesOnceAndReadsTheSum : Prop :=
  (∀ (s : State), s.sync = .synced →
    (s.txbuf = [] → perform .flush s = .next { s with rxexp := [], results := s.results ++ [.bytes []] }) ∧
    (s.txbuf ≠ [] → ∀ (w : Answer) (rest : List Answer), s.answers = w :: rest →
      ((w.ok = false ∨ w.count ≠ s.txbuf.length) →
        perform .flush s = .next (State.withFatal { s with answers := rest, calls := s.calls ++ [.write s.txbuf] }
          .transportError (.transportError .write))) ∧
      (w.ok = true → w.count = s.txbuf.length →
        (s.rxexp.sum = 0 → perform .flush s = .next { s with
          txbuf := [], rxexp := [], answers := rest, calls := s.calls ++ [.write s.txbuf]
          results := s.results ++ [.bytes []] }) ∧
        (s.rxexp.sum ≠ 0 → ∀ (r : Answer) (rest' : List Answer), rest = r :: rest' →
          ((r.ok = false ∨ r.bytes.length < s.rxexp.sum) →
            perform .flush s = .next (State.withFatal { s with
              answers := rest', calls := s.calls ++ [.write s.txbuf, .read s.rxexp.sum] }
                .transportError (.transportError .read))) ∧
          (r.ok = true → s.rxexp.sum ≤ r.bytes.length →
            perform .flush s = .next { s with
              txbuf := [], rxexp := [], answers := rest'
              calls := s.calls ++ [.write s.txbuf, .read s.rxexp.sum]
              results := s.results ++ [.bytes (r.bytes.take s.rxexp.sum)] }))))) ∧
  (∀ (r : Request) (s t : State) (res : OpResult), r.flushes = true → perform r s = .next t →
    t.results = s.results ++ [res] →
    let n := s.rxexp.sum + r.ownResponse
    ((∃ k, res = .error (.encodingError k)) → t.calls = s.calls) ∧
    ((∀ k, res ≠ .error (.encodingError k)) →
      if s.txbuf = [] ∧ r.sendsNothing s.params = true then t.calls = s.calls ∧ res.isFatal = false
      else ∃ out, s.txbuf <+: out ∧ out ≠ [] ∧ (r.sendsNothing s.params = true → out = s.txbuf) ∧
        if s.answer.ok = false ∨ s.answer.count ≠ out.length then
          t.calls = s.calls ++ [.write out] ∧ res = .error (.transportError .write)
        else if n = 0 then t.calls = s.calls ++ [.write out] ∧ res.isFatal = false
        else t.calls = s.calls ++ [.write out, .read n] ∧
          if (s.afterCall (.write out)).answer.ok = false ∨ (s.afterCall (.write out)).answer.bytes.length < n then
            res = .error (.transportError .read)
          else res.isFatal = false))

/-- R163: the slices of a response are taken in enqueue order, fragment `k` owns `e_k` consecutive bytes from the sum of
the lengths before it on, a fragment of length 0 owns nothing, and together the slices are the response. -/
def Obligations.SlicesPartitionTheResponse : Prop :=
  ∀ (lens : List Nat) (resp : List Byte), resp.length = lens.sum →
    (∀ k, (h : k < lens.length) → (slice lens resp k).length = lens[k] ∧
      ∀ j, j < lens[k] → (slice lens resp k)[j]? = resp[(lens.take k).sum + j]?) ∧
    (List.range lens.length).flatMap (slice lens resp) = resp

/-! ## The handshake -/

/-- R179: a handshake in which both rounds find their echo empties the buffers, makes `SYNC = Synced` and `FAULT = None`,
whatever they held, and touches neither the pin registers, nor `fsm`, nor `SPI_CFG`, nor a shadow. -/
def Obligations.HandshakeSucceedsOnBothEchoes : Prop :=
  ∀ (s : State) (zeros1 zeros2 between rest : List Answer) (b1 a1 b2 a2 : List Byte),
    servedProbe s.params.syncPollLimit zeros1 (b1 ++ [0xFA#8, 0xAA#8] ++ a1) s.answers between →
    servedProbe s.params.syncPollLimit zeros2 (b2 ++ [0xFA#8, 0xAB#8] ++ a2) between rest →
    perform .syncHandshake s = .next { s with
      txbuf := [], rxexp := [], sync := .synced, fault := none, handshake := none, answers := rest
      calls := s.calls ++ (probeCalls 0xAA#8 (zeros1.length + 1) (b1.length + 2 + a1.length) ++
        probeCalls 0xAB#8 (zeros2.length + 1) (b2.length + 2 + a2.length))
      results := s.results ++ [.done] }

/-- R178, R181: against a transport that reports no byte for `SYNC_POLL_LIMIT` polls the handshake is a `SyncError`; 0xAB
is never written. -/
def Obligations.HandshakeAgainstSilenceIsASyncError : Prop :=
  ∀ (s : State) (w : Answer) (zeros rest : List Answer), s.answers = w :: (zeros ++ rest) → w.ok = true → w.count = 1 →
    zeros.length = s.params.syncPollLimit → (∀ a ∈ zeros, a.ok = true ∧ a.count = 0) →
    perform .syncHandshake s = .next (State.withFatal { s with
      answers := rest
      calls := s.calls ++ (.write [0xAA#8] :: List.replicate s.params.syncPollLimit .bytesAvailable) }
        .syncError (.syncError 0xAA#8 none))

/-- R179: when a round of the handshake fails, for whatever reason, the handshake ends with the error of that round; when it
is the first, the second probe is not attempted: of the two probe bytes only the first has been written. -/
def Obligations.FailedFirstRoundEndsTheHandshake : Prop :=
  (∀ (s t : State) (e : OpError), (s.beginHandshake.probe 0xAA#8).1 = .error e → perform .syncHandshake s = .next t →
    t.results = s.results ++ [.error e] ∧ wireStream t.calls = wireStream s.calls ++ [0xAA#8]) ∧
  (∀ (s t u : State) (e : OpError), s.beginHandshake.probe 0xAA#8 = (.ok (), u) →
    ((u.setRound .second).probe 0xAB#8).1 = .error e → perform .syncHandshake s = .next t →
    t.results = s.results ++ [.error e] ∧ wireStream t.calls = wireStream s.calls ++ [0xAA#8, 0xAB#8])

/-! ## I2C -/

/-- R190: `Start` sets the two lines as outputs and the data-in pin as an input, emits its three levels `HOLD_N` times each,
flushes nothing, and leaves `fsm = Started`. -/
def Obligations.StartEmitsItsThreeLevels : Prop :=
  ∀ s : State, s.sync = .synced →
    let scl := s.params.sclBit
    let sda := s.params.sdaOutBit
    let n := s.params.holdN
    let d := unsetBit (setBit (setBit s.low.direction scl) sda) s.params.sdaInBit
    let v1 := setBit (setBit s.low.value scl) sda
    let v2 := unsetBit v1 sda
    let v3 := unsetBit v2 scl
    perform .i2cStart s = .next { s with
      low := { value := v3, direction := d }
      txbuf := s.txbuf ++ ((List.replicate n [0x80#8, v1, d]).flatten ++ (List.replicate n [0x80#8, v2, d]).flatten ++
        (List.replicate n [0x80#8, v3, d]).flatten)
      rxexp := s.rxexp ++ List.replicate (3 * n) 0
      fsm := .started
      results := s.results ++ [.done] }

/-- R192: `Stop` emits its three levels `HOLD_N` times each and flushes them with anything pending; both pins end as outputs
with value 1, and `fsm = Idle`. -/
def Obligations.StopEmitsItsThreeLevelsAndFlushes : Prop :=
  ∀ (s : State) (resp : List Byte) (rest : List Answer), s.sync = .synced → 1 ≤ s.params.holdN →
    let scl := s.params.sclBit
    let sda := s.params.sdaOutBit
    let n := s.params.holdN
    let d := setBit (setBit s.low.direction scl) sda
    let v1 := unsetBit (unsetBit s.low.value scl) sda
    let v2 := setBit v1 scl
    let v3 := setBit v2 sda
    let out := s.txbuf ++ ((List.replicate n [0x80#8, v1, d]).flatten ++ (List.replicate n [0x80#8, v2, d]).flatten ++
      (List.replicate n [0x80#8, v3, d]).flatten)
    s.Served out s.rxexp.sum resp rest →
    perform .i2cStop s = .next { s with
      low := { value := v3, direction := d }
      txbuf := [], rxexp := [], fsm := .idle, answers := rest
      calls := s.calls ++ flushCalls out s.rxexp.sum
      results := s.results ++ [.done] }

/-- R194: the address send. It emits the fragments of R193 with the byte `(address * 2 + rw) mod 256`, flushes them with
anything pending, and returns whether bit 0 of the last response byte is 0; the data pin ends as an input and
`fsm = AddressPhase`. When the transport does not take the write it is a `TransportError`, and the pin registers keep what
the operation wrote (R244). -/
def Obligations.AddressSendReturnsTheAcknowledge : Prop :=
  ∀ (s : State) (address : Byte) (readFlag : Bool), s.sync = .synced →
    let b := BitVec.ofNat 8 ((address.toNat * 2 + if readFlag then 1 else 0) % 256)
    let out := s.txbuf ++ ackedSend s.low s.params.sdaOutBit b
    let low' : RegisterPair := { s.low with direction := unsetBit s.low.direction s.params.sdaOutBit }
    (∀ (earlier : List Byte) (response : Byte) (rest : List Answer), earlier.length = s.rxexp.sum →
      s.Served out (s.rxexp.sum + 1) (earlier ++ [response]) rest →
      perform (.i2cSendDeviceAddrAndCheckAck address readFlag) s = .next { s with
        low := low', txbuf := [], rxexp := [], fsm := .addressPhase, answers := rest
        calls := s.calls ++ [.write out, .read (s.rxexp.sum + 1)]
        results := s.results ++ [.flag (response.getLsbD 0 == false)] }) ∧
    (∀ (w : Answer) (rest : List Answer), s.answers = w :: rest → (w.ok = false ∨ w.count ≠ out.length) →
      perform (.i2cSendDeviceAddrAndCheckAck address readFlag) s =
        .next (State.withFatal { s with low := low', answers := rest, calls := s.calls ++ [.write out] } .transportError
          (.transportError .write)))

/-- R196: the send of one data byte, as the address send with the byte itself and `fsm = DataPhase`. -/
def Obligations.ByteSendReturnsTheAcknowledge : Prop :=
  ∀ (s : State) (b : Byte) (earlier : List Byte) (response : Byte) (rest : List Answer), s.sync = .synced →
    earlier.length = s.rxexp.sum →
    let out := s.txbuf ++ ackedSend s.low s.params.sdaOutBit b
    s.Served out (s.rxexp.sum + 1) (earlier ++ [response]) rest →
    perform (.i2cSendByteAndCheckAck b) s = .next { s with
      low := { s.low with direction := unsetBit s.low.direction s.params.sdaOutBit }
      txbuf := [], rxexp := [], fsm := .dataPhase, answers := rest
      calls := s.calls ++ [.write out, .read (s.rxexp.sum + 1)]
      results := s.results ++ [.flag (response.getLsbD 0 == false)] }

/-- R198: `SendBytes` emits the fragments of R193 once per byte whatever the slave answers, flushes once, and returns one
ACK result per byte in order; with no byte it flushes what is pending and returns the empty sequence. -/
def Obligations.BytesSendReturnsOneAcknowledgePerByte : Prop :=
  ∀ (s : State) (bytes : List Byte), s.sync = .synced →
    let out := s.txbuf ++ bytes.flatMap (ackedSend s.low s.params.sdaOutBit)
    (∀ (earlier acks : List Byte) (rest : List Answer), out ≠ [] → earlier.length = s.rxexp.sum →
      acks.length = bytes.length →
      s.Served out (s.rxexp.sum + bytes.length) (earlier ++ acks) rest →
      perform (.i2cSendBytes bytes) s = .next { s with
        low := if bytes = [] then s.low else
          { s.low with direction := unsetBit s.low.direction s.params.sdaOutBit }
        txbuf := [], rxexp := [], fsm := .dataPhase, answers := rest
        calls := s.calls ++ flushCalls out (s.rxexp.sum + bytes.length)
        results := s.results ++ [.flags (acks.map fun a => a.getLsbD 0 == false)] }) ∧
    (out = [] → perform (.i2cSendBytes bytes) s = .next { s with
      rxexp := [], fsm := .dataPhase, results := s.results ++ [.flags []] })

/-- R200: `ReceiveByte` emits its twelve bytes in order, flushes them with anything pending, and returns the response byte
of its first fragment; the bit sent is 0x00 for ACK and 0xFF for NACK. -/
def Obligations.ReceiveReturnsTheByteClockedIn : Prop :=
  ∀ (s : State) (ackToSend : Bool) (earlier : List Byte) (received : Byte) (rest : List Answer), s.sync = .synced →
    earlier.length = s.rxexp.sum →
    let sda := s.params.sdaOutBit
    let out := s.txbuf ++ [0x22#8, 0x07#8, 0x80#8, s.low.value, setBit s.low.direction sda,
      0x13#8, 0x00#8, if ackToSend then 0x00#8 else 0xFF#8, 0x80#8, s.low.value, unsetBit s.low.direction sda, 0x87#8]
    s.Served out (s.rxexp.sum + 1) (earlier ++ [received]) rest →
    perform (.i2cReceiveByte ackToSend) s = .next { s with
      low := { s.low with direction := unsetBit s.low.direction sda }
      txbuf := [], rxexp := [], fsm := .dataPhase, answers := rest
      calls := s.calls ++ [.write out, .read (s.rxexp.sum + 1)]
      results := s.results ++ [.byte received] }

/-- R185: an I2C operation changes no bit of bank `LOW` but its clock and data bits in the value register and these and the
data-in bit in the direction register, and it never touches bank `HIGH`, whatever its outcome. -/
def Obligations.I2cOperationsKeepTheOtherPins : Prop :=
  ∀ (r : Request) (s t : State), r.i2cOp.isSome = true → perform r s = .next t →
    t.high = s.high ∧
    ∀ j < 8, j ≠ s.params.sclBit.val → j ≠ s.params.sdaOutBit.val →
      t.low.value.getLsbD j = s.low.value.getLsbD j ∧
      (j ≠ s.params.sdaInBit.val → t.low.direction.getLsbD j = s.low.direction.getLsbD j)

/-- R206: `fsm` changes only at the successful end of an I2C operation, to the state the table gives, whatever it held;
every other operation that ends without a fatal error leaves it. -/
def Obligations.FsmFollowsTheTransitionTable : Prop :=
  ∀ (r : Request) (s t : State) (res : OpResult), perform r s = .next t → t.results = s.results ++ [res] →
    res.isFatal = false →
    t.fsm = match r with
      | .i2cStart => .started
      | .i2cSendDeviceAddrAndCheckAck _ _ => .addressPhase
      | .i2cSendByteAndCheckAck _ => .dataPhase
      | .i2cSendBytes _ => .dataPhase
      | .i2cReceiveByte _ => .dataPhase
      | .i2cStop => .idle
      | _ => s.fsm

/-! ## SPI -/

/-- R216: `SpiConfigure` records the configuration, makes clock, data out and chip-select outputs and data in an input, sets
the idle clock level of the mode and then the idle chip-select level of the policy (R217, R218), and appends one set
command; a pin above 7 is a `RangeError` before any change. It does so at every call, whatever record is there: that R39's
"written once" forbids no second call is how the model reads the two rules together (log entry 13). -/
def Obligations.SpiConfigureSetsIdleLevels : Prop :=
  ∀ (s : State) (cfg : SpiConfig), s.sync = .synced →
    let c := cfg.chipSelectPin
    let d := setBit (unsetBit (setBit (setBit s.low.direction s.params.skBit) s.params.doBit) s.params.diBit) c
    let v := if cfg.mode = .mode2 then setBit s.low.value s.params.skBit else unsetBit s.low.value s.params.skBit
    let v' := if cfg.chipSelectPolicy = .activeLow ∨ cfg.chipSelectPolicy = .defaultHigh then setBit v c else unsetBit v c
    (c ≤ 7 → perform (.spiConfigure cfg) s =
      .next (State.withFragment { s with low := { value := v', direction := d }, spiCfg := some cfg } [0x80#8, v', d] 0)) ∧
    (7 < c → perform (.spiConfigure cfg) s = .next (s.withError (.rangeError c)))

/-- R222, R219: `Spi.write` sends one bytes-out command of the mode, under the automatic policies between the command that
asserts chip-select and the one that deasserts it, under the Default policies alone, in one flush with anything pending; the
only register it leaves changed is the chip-select bit, at its idle level. -/
def Obligations.SpiWriteSendsOneTransfer : Prop :=
  ∀ (s : State) (cfg : SpiConfig) (p resp : List Byte) (rest : List Answer), s.sync = .synced → s.spiCfg = some cfg →
    1 ≤ p.length → p.length ≤ 65536 →
    let c := cfg.chipSelectPin
    let v := s.low.value
    let cmd := [if cfg.mode = .mode0 then 0x11#8 else 0x10#8, lo8 (p.length - 1), hi8 (p.length - 1)] ++ p
    (∀ (asserted idle : Byte),
      (cfg.chipSelectPolicy = .activeLow ∧ asserted = unsetBit v c ∧ idle = setBit v c) ∨
      (cfg.chipSelectPolicy = .activeHigh ∧ asserted = setBit v c ∧ idle = unsetBit v c) →
      let out := s.txbuf ++ ([0x80#8, asserted, s.low.direction] ++ cmd ++ [0x80#8, idle, s.low.direction])
      s.Served out s.rxexp.sum resp rest →
      perform (.spiWrite p) s = .next { s with
        low := { s.low with value := idle }, txbuf := [], rxexp := [], answers := rest
        calls := s.calls ++ flushCalls out s.rxexp.sum
        results := s.results ++ [.done] }) ∧
    (cfg.chipSelectPolicy = .defaultLow ∨ cfg.chipSelectPolicy = .defaultHigh →
      s.Served (s.txbuf ++ cmd) s.rxexp.sum resp rest →
      perform (.spiWrite p) s = .next { s with
        txbuf := [], rxexp := [], answers := rest
        calls := s.calls ++ flushCalls (s.txbuf ++ cmd) s.rxexp.sum
        results := s.results ++ [.done] })

/-- R224, R219: `Spi.readWrite` sends one bytes-in-out command of the mode in the same way and returns the response bytes of
its transfer, as many as the payload has. -/
def Obligations.SpiReadWriteReturnsItsTransfer : Prop :=
  ∀ (s : State) (cfg : SpiConfig) (p earlier received : List Byte) (rest : List Answer), s.sync = .synced →
    s.spiCfg = some cfg → 1 ≤ p.length → p.length ≤ 65536 → earlier.length = s.rxexp.sum →
    received.length = p.length →
    let c := cfg.chipSelectPin
    let v := s.low.value
    let n := s.rxexp.sum + p.length
    let cmd := [if cfg.mode = .mode0 then 0x31#8 else 0x34#8, lo8 (p.length - 1), hi8 (p.length - 1)] ++ p
    (∀ (asserted idle : Byte),
      (cfg.chipSelectPolicy = .activeLow ∧ asserted = unsetBit v c ∧ idle = setBit v c) ∨
      (cfg.chipSelectPolicy = .activeHigh ∧ asserted = setBit v c ∧ idle = unsetBit v c) →
      let out := s.txbuf ++ ([0x80#8, asserted, s.low.direction] ++ cmd ++ [0x80#8, idle, s.low.direction])
      s.Served out n (earlier ++ received) rest →
      perform (.spiReadWrite p) s = .next { s with
        low := { s.low with value := idle }, txbuf := [], rxexp := [], answers := rest
        calls := s.calls ++ [.write out, .read n]
        results := s.results ++ [.bytes received] }) ∧
    (cfg.chipSelectPolicy = .defaultLow ∨ cfg.chipSelectPolicy = .defaultHigh →
      s.Served (s.txbuf ++ cmd) n (earlier ++ received) rest →
      perform (.spiReadWrite p) s = .next { s with
        txbuf := [], rxexp := [], answers := rest
        calls := s.calls ++ [.write (s.txbuf ++ cmd), .read n]
        results := s.results ++ [.bytes received] })

/-- R230, R240: a transfer of 0 or more than 65536 bytes is an `EncodingError` before chip-select moves; nothing changes. A
transfer requires `SPI_CFG` present (R39, R222): without it, in service, it is refused whatever its length; the refusal and its
name are log entry 14. -/
def Obligations.SpiBadLengthMovesNothing : Prop :=
  ∀ (s : State) (p : List Byte), s.sync = .synced →
    (s.spiCfg ≠ none → (p.length = 0 ∨ 65536 < p.length) →
      perform (.spiWrite p) s = .next (s.withError (.encodingError p.length)) ∧
      perform (.spiReadWrite p) s = .next (s.withError (.encodingError p.length))) ∧
    (s.spiCfg = none →
      perform (.spiWrite p) s = .refused .spiNotConfigured ∧ perform (.spiReadWrite p) s = .refused .spiNotConfigured)

/-- R228: when nothing else is expected and the transport answers the one read with the payload, `readWrite(data)` returns
`data`, for every length 1 to 65536, every mode and every policy. -/
def Obligations.SpiLoopbackReturnsTheData : Prop :=
  ∀ (s : State) (w r : Answer) (rest : List Answer) (data : List Byte), s.sync = .synced → s.spiCfg ≠ none →
    s.rxexp.sum = 0 → 1 ≤ data.length → data.length ≤ 65536 → s.answers = w :: r :: rest → w.ok = true →
    r.ok = true → r.bytes = data →
    (∀ t, perform (.spiReadWrite data) s = .next t → ∀ out, .write out ∈ t.calls.drop s.calls.length →
      w.count = out.length) →
    ∃ t, perform (.spiReadWrite data) s = .next t ∧ t.results = s.results ++ [.bytes data]

/-! ## The machine -/

/-- One step serves one request: with the lock free a step is `perform` of the first request at the `OP` port, whatever it is,
with the request taken off the port, the lock held before and free after (R60); for a wire command `perform` is `exec` of it.
That a table word presented by `withFetchWord` is run by the very next step, from a block in service or, for a probe byte, in
its round of a handshake, is the model's choice (log entry 2). -/
def Obligations.StepRunsTheDecodedCommand : Prop :=
  (∀ (s : State) (r : Request) (waiting : List Request), s.lock = .free → s.requests = r :: waiting →
    step s = match perform r { s with requests := waiting, lock := .held } with
      | .next t => .next { t with lock := .free }
      | .fault f => .fault f
      | .refused r => .refused r) ∧
  (∀ (s : State) (i : Instr), perform (.wire i) s = exec i s) ∧
  (∀ (s : State) (nbits w : Nat) (i : Instr), decodeTableWord nbits w = some i →
    let start : State := match i with
      | .syncProbe1 => { s with lock := .held, handshake := some .first }
      | .syncProbe2 => { s with lock := .held, handshake := some .second }
      | _ => { s with lock := .held, sync := .synced, fault := none }
    step (s.withFetchWord nbits w) =
      match exec i start with
      | .next t => .next { t with lock := .free }
      | .fault f => .fault f
      | .refused r => .refused r)

/-- The lock (R60, R61): an operation does not give it up before it returns, a step that completes leaves it free whatever
the result, and while it is held a request has no step. The fault that says so is the model's (log entry 17), and so is a step
with no request, which does nothing (log entry 18). -/
def Obligations.LockIsHeldOverAnOperation : Prop :=
  (∀ (r : Request) (s t : State), perform r s = .next t → t.lock = s.lock ∧ t.requests = s.requests) ∧
  (∀ s t : State, step s = .next t → t.lock = .free) ∧
  (∀ s : State, s.lock = .free → s.requests = [] → step s = .next s) ∧
  (∀ s : State, s.lock = .held → step s = .fault .lockHeld)

/-- R45: the state after construction, for every value of the parameters. -/
def Obligations.ConstructionLeavesTheResetTable : Prop :=
  ∀ p : Params,
    (State.constructed p).low = { value := 0x00#8, direction := 0x00#8 } ∧
    (State.constructed p).high = { value := 0x00#8, direction := 0x00#8 } ∧
    (State.constructed p).txbuf = [] ∧ (State.constructed p).rxexp = [] ∧ (State.constructed p).fsm = .idle ∧
    (State.constructed p).sync = .unsynced ∧ (State.constructed p).fault = none ∧ (State.constructed p).lock = .free ∧
    (State.constructed p).cfg.clkdiv = none ∧ (State.constructed p).cfg.div5 = none ∧
    (State.constructed p).cfg.phase3 = none ∧ (State.constructed p).cfg.loopback = none ∧
    (State.constructed p).cfg.drive0 = none ∧ (State.constructed p).spiCfg = none ∧ (State.constructed p).params = p

/-- The invariant holds of every instance as constructed, whatever its parameters, and with any requests and any answers
waiting. -/
def Obligations.ConstructedInstanceMeetsTheInvariant : Prop :=
  ∀ (p : Params) (requests : List Request) (answers : List Answer),
    Inv { State.constructed p with requests := requests, answers := answers }

/-- Every step keeps the invariant: the lock is free and no handshake is running, a block in service has no fault, nothing is
pending out of service, `Stopped` is never seen, the two buffers are cleared together, the pending bytes are whole commands of
the instance's interface, the chip-select pin is in range, and the shadows move one way and only with their capability (R26,
R35 to R39, R56, R60, R61, R86, R161, R207). -/
def Obligations.EveryStepKeepsTheInvariant : Prop :=
  ∀ s t : State, Inv s → step s = .next t → Inv t

/-- Every operation that ends returns exactly one result or one error, after those returned before it, and its transport
calls come after those made before it (R8, R12). The premise is that no handshake is running, as none is between operations:
a probe round, which is part of one, is no operation of its own (log entry 10). -/
def Obligations.EveryOperationRepliesOnce : Prop :=
  ∀ (r : Request) (s t : State), s.handshake = none → perform r s = .next t →
    (∃ res, t.results = s.results ++ [res]) ∧ (∃ calls, t.calls = s.calls ++ calls)

/-- R240, R241, R242: after a `RangeError` or an `EncodingError` the state is exactly the state before the request. -/
def Obligations.ArgumentErrorsChangeNothing : Prop :=
  ∀ (r : Request) (s t : State) (e : OpError), perform r s = .next t → t.results = s.results ++ [.error e] →
    e.fatal = none → t = s.withError e

/-- R243, R244: after a fatal error nothing is pending, the block is out of service with the error latched, `fsm` is `Idle`,
every shadow is forgotten; `SPI_CFG`, bank `HIGH` and, after a `SyncError`, bank `LOW` are as before the operation, and so
are the lock, which `step` then releases, and the parameters; no handshake is left running. After a `TransportError` bank `LOW`
is kept as the operation wrote it before its first call: by the rules of `Stop` (R192), of the sends and the receive (R193, R200)
and of the transfers (R219, R222, R224), and for any other operation as it was. -/
def Obligations.FatalErrorsLeaveTheFatalState : Prop :=
  ∀ (r : Request) (s t : State) (e : OpError) (f : FatalError), perform r s = .next t →
    t.results = s.results ++ [.error e] → e.fatal = some f →
    t.txbuf = [] ∧ t.rxexp = [] ∧ t.sync = .unsynced ∧ t.fault = some f ∧ t.fsm = .idle ∧ t.cfg = Shadow.unknown ∧
    t.spiCfg = s.spiCfg ∧ t.high = s.high ∧ (f = .syncError → t.low = s.low) ∧ t.low = r.lowWritten s ∧ t.lock = s.lock ∧ t.params = s.params ∧
    t.handshake = none

/-- R246, R247 (1), R260: while `SYNC = Unsynced` every operation but the handshake and the pure pin-register operations is
refused, and nothing else is looked at; a probe byte outside a handshake is refused with the rest. (The transport's own
bring-up calls are no operations of the block: log entry 15.) -/
def Obligations.UnsyncedRequestsAreRefused : Prop :=
  ∀ (r : Request) (s : State), s.sync = .unsynced → s.handshake = none →
    r.isPinOperation = false → r ≠ .syncHandshake → r.isBringUp = false →
    perform r s = .refused .unsynced

/-- R58: in service, and for the requests that need no service also out of it, every request of the interface ends in a
result or an error, whatever the transport answers. That the transport's bring-up calls are among the requests is the model's
choice (log entry 15), and so is what a direct enqueue may append (log entry 12). -/
def Obligations.FormedRequestsComplete : Prop :=
  ∀ (r : Request) (s : State), (s.sync = .synced ∨ r.needsSync = false) → r.formed s = true →
    ∃ t, perform r s = .next t

/-- R23: the pin registers are written only by the pin operations, the I2C operations and the SPI operations, whatever the
outcome; bank `HIGH` only by the pin operations, and a pin operation writes only the register it names. -/
def Obligations.PinRegistersAreWrittenOnlyByTheirOwners : Prop :=
  ∀ (r : Request) (s t : State), perform r s = .next t →
    (r.isPinOperation = false → r.i2cOp = none → r.isSpi = false → t.low = s.low) ∧
    (r.isPinOperation = false → t.high = s.high) ∧
    (∀ p p', r.pinReg = some p → p' ≠ p → t.pin p' = s.pin p')

/-- The parameters are written by no operation (R40), `SPI_CFG` only by `SpiConfigure`, with the record given (R216), and it is
read-only for every other operation; a record is never removed. For a caller that configures an instance once, a premise R216
does not check, a record that is there stays as it was written (R39, as log entry 13 reads it). Without a fatal error the shadows are written only by the enqueue of a command (R123). -/
def Obligations.ConfigurationIsWrittenOnlyByItsCommands : Prop :=
  (∀ (r : Request) (s t : State), perform r s = .next t →
    t.params = s.params ∧
    ((∀ cfg, r ≠ .spiConfigure cfg) → t.spiCfg = s.spiCfg) ∧
    (∀ cfg, r = .spiConfigure cfg → t.spiCfg = if cfg.chipSelectPin ≤ 7 then some cfg else s.spiCfg) ∧
    (s.spiCfg ≠ none → t.spiCfg ≠ none) ∧
    (r.configuresOnce s = true → ∀ cfg, s.spiCfg = some cfg → t.spiCfg = some cfg)) ∧
  (∀ (r : Request) (s t : State) (res : OpResult), perform r s = .next t → t.results = s.results ++ [res] →
    res.isFatal = false → r.isDirectEnqueue = false → t.cfg = s.cfg)

/-- R8, R55, R64: what an operation sends joins the end of what was handed over or pending before it: pending bytes are
never rewritten, reordered or dropped by an operation that ends without a fatal error, and what it adds is a sequence of
whole commands of the encoder. (The handshake, which empties the buffers and sends its probe bytes past them, is the exception
R177 and R179 state; the premise is that none is running, as none is between operations.) -/
def Obligations.OutboundBytesKeepEnqueueOrder : Prop :=
  ∀ (r : Request) (s t : State) (res : OpResult), s.handshake = none → perform r s = .next t →
    t.results = s.results ++ [res] → res.isFatal = false → r ≠ .syncHandshake →
    ∃ is : List Instr, is.all (pendable s.params.cap) = true ∧ t.outbound = s.outbound ++ is.flatMap encode

/-- R52, R282: a probe round makes at most `2 + SYNC_POLL_LIMIT` calls and the handshake twice that; every other operation
makes none, or one write, or one write and then one read. That a probe round has a step of its own inside a handshake, and
that a bring-up call is a request, of one call, are the model's choices (log entries 10 and 15). -/
def Obligations.TransportCallsAreBounded : Prop :=
  ∀ (r : Request) (s t : State), perform r s = .next t →
    ∃ calls, t.calls = s.calls ++ calls ∧
      (r = .syncHandshake → calls.length ≤ 2 * (2 + s.params.syncPollLimit)) ∧
      (r.isProbeRound = true → calls.length ≤ 2 + s.params.syncPollLimit) ∧
      (r.isBringUp = true → calls.length = 1) ∧
      (r ≠ .syncHandshake → r.isProbeRound = false → r.isBringUp = false →
        calls = [] ∨ (∃ out, calls = [.write out]) ∨ (∃ out n, calls = [.write out, .read n]))

/-- R166, R12: an operation that flushes leaves both buffers empty unless an argument error ended it; and when no pending
fragment expects a response, none does after any operation but a direct enqueue. -/
def Obligations.NothingIsExpectedBetweenOperations : Prop :=
  ∀ (r : Request) (s t : State) (res : OpResult), perform r s = .next t → t.results = s.results ++ [res] →
    (r.flushes = true → (∀ n, res ≠ .error (.encodingError n)) → t.txbuf = [] ∧ t.rxexp = []) ∧
    (r.isDirectEnqueue = false → s.nothingExpected → t.nothingExpected)

/-- R31, R32, R248: a block out of service comes back into it only through the handshake, and only a handshake that succeeds
clears the latched error. The premise is that no handshake is running, as none is between operations. -/
def Obligations.ServiceReturnsOnlyThroughTheHandshake : Prop :=
  ∀ (r : Request) (s t : State), s.handshake = none → perform r s = .next t →
    (s.sync = .unsynced → t.sync = .synced → r = .syncHandshake) ∧
    (s.fault ≠ none → t.fault = none → r = .syncHandshake ∧ t.sync = .synced)

/-- R280: the formula's values at divisor 0 for both bases, that the frequency does not increase with the divisor, and which
base the capability and the shadow select. Where the block does not know the prescaler's state, or the divisor, the model
gives no frequency (log entry 21). -/
def Obligations.ClockFrequencyFollowsTheFormula : Prop :=
  clockHz 12000000 0#16 = 6000000 ∧ clockHz 60000000 0#16 = 30000000 ∧
  (∀ (base : Nat) (d d' : BitVec 16), d.toNat ≤ d'.toNat → clockHz base d' ≤ clockHz base d) ∧
  (∀ (s : State) (d : BitVec 16), s.cfg.clkdiv = some d →
    (s.params.cap.hasClockDivideBy5 = false → s.frequencyHz = some ((12000000 : Rat) / ((1 + d.toNat) * 2))) ∧
    (s.params.cap.hasClockDivideBy5 = true →
      (s.cfg.div5 = some false → s.frequencyHz = some ((60000000 : Rat) / ((1 + d.toNat) * 2))) ∧
      (s.cfg.div5 = some true → s.frequencyHz = some ((12000000 : Rat) / ((1 + d.toNat) * 2))) ∧
      (s.cfg.div5 = none → s.frequencyHz = none))) ∧
  (∀ s : State, s.cfg.clkdiv = none → s.frequencyHz = none)

/-- A bring-up call changes no state of the block when the transport takes it, and is a `TransportError` that names it when
the transport does not (R239, R262). That it is a request of the model is the model's choice (log entry 15). -/
def Obligations.BringUpFailureIsATransportError : Prop :=
  ∀ (s : State) (c : BringUpCall) (a : Answer) (rest : List Answer), s.answers = a :: rest →
    (a.ok = true → perform (.bringUp c) s = .next { s with
      answers := rest, calls := s.calls ++ [.bringUp c], results := s.results ++ [.done] }) ∧
    (a.ok = false → perform (.bringUp c) s =
      .next (State.withFatal { s with answers := rest, calls := s.calls ++ [.bringUp c] } .transportError
        (.transportError (.bringUp c))))
end

