-- ==== Sys2Proof/Laws/Encoding.lean ====
section
/-! SUPPORT. The fields of a wire command read back what was written into them (R80, R81, R73). -/

namespace Sys2Proof

/-- Taking as many bytes as a sequence has gives the sequence. -/
theorem takeExactly_append (p rest : List Byte) : takeExactly p.length (p ++ rest) = some (p, rest) := by
  induction p with
  | nil => rfl
  | cons b bs ih => simp [takeExactly, ih]

/-- What `takeExactly` answers: the sequence in two parts, the first of the asked length. -/
theorem takeExactly_eq_some {n : Nat} {bs p rest : List Byte} (h : takeExactly n bs = some (p, rest)) :
    p.length = n ∧ bs = p ++ rest := by
  induction n generalizing bs p with
  | zero => simp only [takeExactly, Option.some.injEq, Prod.mk.injEq] at h; simp [← h.1, ← h.2]
  | succ n ih =>
    cases bs with
    | nil => simp [takeExactly] at h
    | cons b bs =>
      simp only [takeExactly, Option.map_eq_some_iff, Prod.mk.injEq, Prod.exists] at h
      obtain ⟨q, r, hq, rfl, rfl⟩ := h
      obtain ⟨hl, rfl⟩ := ih hq
      simp [hl]

/-- A 16-bit field written low byte first reads back (R53, R80). -/
theorem u16_lo8_hi8 {n : Nat} (h : n < 65536) : u16 (lo8 n) (hi8 n) = n := by
  simp only [u16, lo8, hi8, BitVec.toNat_ofNat]
  omega

/-- The two bytes of a 16-bit field are the ones it was read from (R53, R80). -/
theorem lo8_u16 (l h : Byte) : lo8 (u16 l h) = l := by
  apply BitVec.eq_of_toNat_eq
  simp only [lo8, u16, BitVec.toNat_ofNat]
  have := l.isLt
  omega

theorem hi8_u16 (l h : Byte) : hi8 (u16 l h) = h := by
  apply BitVec.eq_of_toNat_eq
  simp only [hi8, u16, BitVec.toNat_ofNat]
  have := l.isLt; have := h.isLt
  omega

/-- A 16-bit field is below 65536. -/
theorem u16_lt (l h : Byte) : u16 l h < 65536 := by
  have := l.isLt; have := h.isLt
  simp only [u16]
  omega

/-- A legal payload has 1 to 65536 bytes (R80). -/
theorem payloadOk_iff (p : List Byte) : payloadOk p = true ↔ 1 ≤ p.length ∧ p.length ≤ 65536 := by
  simp [payloadOk, Config.maxLen]

/-- A legal bit count is 1 to 8 (R81). -/
theorem bitCountOk_iff (n : Nat) : bitCountOk n = true ↔ 1 ≤ n ∧ n ≤ 8 := by
  simp [bitCountOk, Config.maxBits]

/-- A payload of legal length reads back (R75, R80). -/
theorem decodePayload_encode (op : Byte) (mk : List Byte → Instr) (p rest : List Byte) (h : payloadOk p = true) :
    decodePayload op mk (lo8 (p.length - 1) :: hi8 (p.length - 1) :: (p ++ rest)) = .ok (mk p, rest) := by
  obtain ⟨h1, h2⟩ := (payloadOk_iff p).mp h
  have hn : u16 (lo8 (p.length - 1)) (hi8 (p.length - 1)) + 1 = p.length := by
    rw [u16_lo8_hi8 (by omega)]; omega
  simp [decodePayload, hn, takeExactly_append]

/-- A bit count of legal size reads back (R81). -/
theorem decodeBitCount_encode (op : Byte) (mk : Nat → Instr) (n : Nat) (rest : List Byte) (h : bitCountOk n = true) :
    decodeBitCount op (lo8 (n - 1)) mk rest = .ok (mk n, rest) := by
  obtain ⟨h3, h4⟩ := (bitCountOk_iff n).mp h
  have ht : (lo8 (n - 1)).toNat = n - 1 := by
    simp only [lo8, BitVec.toNat_ofNat]; omega
  have h1 : n - 1 < Config.maxBits := by simp only [Config.maxBits]; omega
  have h2 : n - 1 + 1 = n := by omega
  simp [decodeBitCount, ht, h1, h2]

/-- A divisor reads back (R73). -/
theorem ofNat_u16_divisor (d : BitVec 16) : BitVec.ofNat 16 (u16 (lo8 d.toNat) (hi8 d.toNat)) = d := by
  rw [u16_lo8_hi8 d.isLt]
  simp

/-- Taking no more bytes than a sequence has succeeds. -/
theorem takeExactly_of_le {n : Nat} {bs : List Byte} (h : n ≤ bs.length) :
    takeExactly n bs = some (bs.take n, bs.drop n) := by
  induction n generalizing bs with
  | zero => simp [takeExactly]
  | succ n ih =>
    cases bs with
    | nil => simp at h
    | cons b bs => simp [takeExactly, ih (by simpa using h)]

/-- What a decoded payload was read from (R75, R80). -/
theorem decodePayload_ok {op : Byte} {mk : List Byte → Instr} {bs rest : List Byte} {i : Instr}
    (h : decodePayload op mk bs = .ok (i, rest)) :
    ∃ p, payloadOk p = true ∧ i = mk p ∧ op :: bs = encodePayload op p ++ rest := by
  rcases bs with _ | ⟨l, _ | ⟨u, bs⟩⟩
  · cases h
  · cases h
  simp only [decodePayload] at h
  split at h
  · next p r hp =>
    cases h
    obtain ⟨hl, rfl⟩ := takeExactly_eq_some hp
    have hlt := u16_lt l u
    have hn : p.length - 1 = u16 l u := by omega
    exact ⟨p, (payloadOk_iff p).2 ⟨by omega, by omega⟩, rfl, by simp [encodePayload, hn, lo8_u16, hi8_u16]⟩
  · cases h

/-- What a decoded bit count was read from (R81). -/
theorem decodeBitCount_ok {op field : Byte} {mk : Nat → Instr} {r rest : List Byte} {i : Instr}
    (h : decodeBitCount op field mk r = .ok (i, rest)) :
    ∃ n, bitCountOk n = true ∧ i = mk n ∧ rest = r ∧ lo8 (n - 1) = field := by
  simp only [decodeBitCount] at h
  split at h
  · next hf =>
    cases h
    simp only [Config.maxBits] at hf
    exact ⟨field.toNat + 1, (bitCountOk_iff _).2 ⟨by omega, by omega⟩, rfl, rfl, by simp [lo8]⟩
  · cases h

theorem decodeOne_ok {op : Byte} {k : Byte → List Byte → Except DecodeError (Instr × List Byte)} {bs : List Byte}
    {x : Instr × List Byte} (h : decodeOne op k bs = .ok x) : ∃ a r, bs = a :: r ∧ k a r = .ok x := by
  rcases bs with _ | ⟨a, r⟩
  · cases h
  · exact ⟨a, r, rfl, h⟩

theorem decodeTwo_ok {op : Byte} {k : Byte → Byte → List Byte → Except DecodeError (Instr × List Byte)}
    {bs : List Byte} {x : Instr × List Byte} (h : decodeTwo op k bs = .ok x) :
    ∃ a b r, bs = a :: b :: r ∧ k a b r = .ok x := by
  rcases bs with _ | ⟨a, _ | ⟨b, r⟩⟩
  · cases h
  · cases h
  · exact ⟨a, b, r, rfl, h⟩

/-- Every command has at least its opcode (R70). -/
theorem encode_ne_nil (i : Instr) : encode i ≠ [] := by
  cases i <;> simp [encode, encodePayload]

end Sys2Proof
end

