-- ==== Sys2Proof/Laws/State.lean ====
section
/-! SUPPORT. One lemma per field of `State` and operation that updates a state, so that no proof unfolds a record update. -/

namespace Sys2Proof.Machine

/-! ## `enqueue` (R160) -/

@[simp] theorem State.enqueue_low (s : State) (c : Encoded) : (s.enqueue c).low = s.low := rfl
@[simp] theorem State.enqueue_high (s : State) (c : Encoded) : (s.enqueue c).high = s.high := rfl
@[simp] theorem State.enqueue_txbuf (s : State) (c : Encoded) : (s.enqueue c).txbuf = s.txbuf ++ c.1 := rfl
@[simp] theorem State.enqueue_rxexp (s : State) (c : Encoded) : (s.enqueue c).rxexp = s.rxexp ++ [c.2] := rfl
@[simp] theorem State.enqueue_fsm (s : State) (c : Encoded) : (s.enqueue c).fsm = s.fsm := rfl
@[simp] theorem State.enqueue_sync (s : State) (c : Encoded) : (s.enqueue c).sync = s.sync := rfl
@[simp] theorem State.enqueue_fault (s : State) (c : Encoded) : (s.enqueue c).fault = s.fault := rfl
@[simp] theorem State.enqueue_lock (s : State) (c : Encoded) : (s.enqueue c).lock = s.lock := rfl
@[simp] theorem State.enqueue_cfg (s : State) (c : Encoded) : (s.enqueue c).cfg = s.cfg := rfl
@[simp] theorem State.enqueue_spiCfg (s : State) (c : Encoded) : (s.enqueue c).spiCfg = s.spiCfg := rfl
@[simp] theorem State.enqueue_params (s : State) (c : Encoded) : (s.enqueue c).params = s.params := rfl
@[simp] theorem State.enqueue_handshake (s : State) (c : Encoded) : (s.enqueue c).handshake = s.handshake := rfl
@[simp] theorem State.enqueue_requests (s : State) (c : Encoded) : (s.enqueue c).requests = s.requests := rfl
@[simp] theorem State.enqueue_answers (s : State) (c : Encoded) : (s.enqueue c).answers = s.answers := rfl
@[simp] theorem State.enqueue_draws (s : State) (c : Encoded) : (s.enqueue c).draws = s.draws := rfl
@[simp] theorem State.enqueue_calls (s : State) (c : Encoded) : (s.enqueue c).calls = s.calls := rfl
@[simp] theorem State.enqueue_results (s : State) (c : Encoded) : (s.enqueue c).results = s.results := rfl

/-! ## the clearing of both buffers (R162, R179) -/

@[simp] theorem State.clearBuffers_low (s : State) : (s.clearBuffers).low = s.low := rfl
@[simp] theorem State.clearBuffers_high (s : State) : (s.clearBuffers).high = s.high := rfl
@[simp] theorem State.clearBuffers_txbuf (s : State) : (s.clearBuffers).txbuf = [] := rfl
@[simp] theorem State.clearBuffers_rxexp (s : State) : (s.clearBuffers).rxexp = [] := rfl
@[simp] theorem State.clearBuffers_fsm (s : State) : (s.clearBuffers).fsm = s.fsm := rfl
@[simp] theorem State.clearBuffers_sync (s : State) : (s.clearBuffers).sync = s.sync := rfl
@[simp] theorem State.clearBuffers_fault (s : State) : (s.clearBuffers).fault = s.fault := rfl
@[simp] theorem State.clearBuffers_lock (s : State) : (s.clearBuffers).lock = s.lock := rfl
@[simp] theorem State.clearBuffers_cfg (s : State) : (s.clearBuffers).cfg = s.cfg := rfl
@[simp] theorem State.clearBuffers_spiCfg (s : State) : (s.clearBuffers).spiCfg = s.spiCfg := rfl
@[simp] theorem State.clearBuffers_params (s : State) : (s.clearBuffers).params = s.params := rfl
@[simp] theorem State.clearBuffers_handshake (s : State) : (s.clearBuffers).handshake = s.handshake := rfl
@[simp] theorem State.clearBuffers_requests (s : State) : (s.clearBuffers).requests = s.requests := rfl
@[simp] theorem State.clearBuffers_answers (s : State) : (s.clearBuffers).answers = s.answers := rfl
@[simp] theorem State.clearBuffers_draws (s : State) : (s.clearBuffers).draws = s.draws := rfl
@[simp] theorem State.clearBuffers_calls (s : State) : (s.clearBuffers).calls = s.calls := rfl
@[simp] theorem State.clearBuffers_results (s : State) : (s.clearBuffers).results = s.results := rfl

/-! ## a transport call (R58) -/

@[simp] theorem State.afterCall_low (s : State) (c : TransportCall) : (s.afterCall c).low = s.low := rfl
@[simp] theorem State.afterCall_high (s : State) (c : TransportCall) : (s.afterCall c).high = s.high := rfl
@[simp] theorem State.afterCall_txbuf (s : State) (c : TransportCall) : (s.afterCall c).txbuf = s.txbuf := rfl
@[simp] theorem State.afterCall_rxexp (s : State) (c : TransportCall) : (s.afterCall c).rxexp = s.rxexp := rfl
@[simp] theorem State.afterCall_fsm (s : State) (c : TransportCall) : (s.afterCall c).fsm = s.fsm := rfl
@[simp] theorem State.afterCall_sync (s : State) (c : TransportCall) : (s.afterCall c).sync = s.sync := rfl
@[simp] theorem State.afterCall_fault (s : State) (c : TransportCall) : (s.afterCall c).fault = s.fault := rfl
@[simp] theorem State.afterCall_lock (s : State) (c : TransportCall) : (s.afterCall c).lock = s.lock := rfl
@[simp] theorem State.afterCall_cfg (s : State) (c : TransportCall) : (s.afterCall c).cfg = s.cfg := rfl
@[simp] theorem State.afterCall_spiCfg (s : State) (c : TransportCall) : (s.afterCall c).spiCfg = s.spiCfg := rfl
@[simp] theorem State.afterCall_params (s : State) (c : TransportCall) : (s.afterCall c).params = s.params := rfl
@[simp] theorem State.afterCall_handshake (s : State) (c : TransportCall) : (s.afterCall c).handshake = s.handshake := rfl
@[simp] theorem State.afterCall_requests (s : State) (c : TransportCall) : (s.afterCall c).requests = s.requests := rfl
@[simp] theorem State.afterCall_answers (s : State) (c : TransportCall) : (s.afterCall c).answers = s.answers.tail := rfl
@[simp] theorem State.afterCall_draws (s : State) (c : TransportCall) : (s.afterCall c).draws = if s.answers.isEmpty then s.draws + 1 else s.draws := rfl
@[simp] theorem State.afterCall_calls (s : State) (c : TransportCall) : (s.afterCall c).calls = s.calls ++ [c] := rfl
@[simp] theorem State.afterCall_results (s : State) (c : TransportCall) : (s.afterCall c).results = s.results := rfl

/-! ## a reply to the caller (R8) -/

@[simp] theorem State.reply_low (s : State) (r : OpResult) : (s.reply r).low = s.low := rfl
@[simp] theorem State.reply_high (s : State) (r : OpResult) : (s.reply r).high = s.high := rfl
@[simp] theorem State.reply_txbuf (s : State) (r : OpResult) : (s.reply r).txbuf = s.txbuf := rfl
@[simp] theorem State.reply_rxexp (s : State) (r : OpResult) : (s.reply r).rxexp = s.rxexp := rfl
@[simp] theorem State.reply_fsm (s : State) (r : OpResult) : (s.reply r).fsm = s.fsm := rfl
@[simp] theorem State.reply_sync (s : State) (r : OpResult) : (s.reply r).sync = s.sync := rfl
@[simp] theorem State.reply_fault (s : State) (r : OpResult) : (s.reply r).fault = s.fault := rfl
@[simp] theorem State.reply_lock (s : State) (r : OpResult) : (s.reply r).lock = s.lock := rfl
@[simp] theorem State.reply_cfg (s : State) (r : OpResult) : (s.reply r).cfg = s.cfg := rfl
@[simp] theorem State.reply_spiCfg (s : State) (r : OpResult) : (s.reply r).spiCfg = s.spiCfg := rfl
@[simp] theorem State.reply_params (s : State) (r : OpResult) : (s.reply r).params = s.params := rfl
@[simp] theorem State.reply_handshake (s : State) (r : OpResult) : (s.reply r).handshake = s.handshake := rfl
@[simp] theorem State.reply_requests (s : State) (r : OpResult) : (s.reply r).requests = s.requests := rfl
@[simp] theorem State.reply_answers (s : State) (r : OpResult) : (s.reply r).answers = s.answers := rfl
@[simp] theorem State.reply_draws (s : State) (r : OpResult) : (s.reply r).draws = s.draws := rfl
@[simp] theorem State.reply_calls (s : State) (r : OpResult) : (s.reply r).calls = s.calls := rfl
@[simp] theorem State.reply_results (s : State) (r : OpResult) : (s.reply r).results = s.results ++ [r] := rfl

/-! ## a fatal error (R243, R244) -/

@[simp] theorem State.enterFatal_low (s : State) (e : FatalError) : (s.enterFatal e).low = s.low := rfl
@[simp] theorem State.enterFatal_high (s : State) (e : FatalError) : (s.enterFatal e).high = s.high := rfl
@[simp] theorem State.enterFatal_txbuf (s : State) (e : FatalError) : (s.enterFatal e).txbuf = [] := rfl
@[simp] theorem State.enterFatal_rxexp (s : State) (e : FatalError) : (s.enterFatal e).rxexp = [] := rfl
@[simp] theorem State.enterFatal_fsm (s : State) (e : FatalError) : (s.enterFatal e).fsm = .idle := rfl
@[simp] theorem State.enterFatal_sync (s : State) (e : FatalError) : (s.enterFatal e).sync = .unsynced := rfl
@[simp] theorem State.enterFatal_fault (s : State) (e : FatalError) : (s.enterFatal e).fault = some e := rfl
@[simp] theorem State.enterFatal_lock (s : State) (e : FatalError) : (s.enterFatal e).lock = s.lock := rfl
@[simp] theorem State.enterFatal_cfg (s : State) (e : FatalError) : (s.enterFatal e).cfg = Shadow.unknown := rfl
@[simp] theorem State.enterFatal_spiCfg (s : State) (e : FatalError) : (s.enterFatal e).spiCfg = s.spiCfg := rfl
@[simp] theorem State.enterFatal_params (s : State) (e : FatalError) : (s.enterFatal e).params = s.params := rfl
@[simp] theorem State.enterFatal_handshake (s : State) (e : FatalError) : (s.enterFatal e).handshake = none := rfl
@[simp] theorem State.enterFatal_requests (s : State) (e : FatalError) : (s.enterFatal e).requests = s.requests := rfl
@[simp] theorem State.enterFatal_answers (s : State) (e : FatalError) : (s.enterFatal e).answers = s.answers := rfl
@[simp] theorem State.enterFatal_draws (s : State) (e : FatalError) : (s.enterFatal e).draws = s.draws := rfl
@[simp] theorem State.enterFatal_calls (s : State) (e : FatalError) : (s.enterFatal e).calls = s.calls := rfl
@[simp] theorem State.enterFatal_results (s : State) (e : FatalError) : (s.enterFatal e).results = s.results := rfl

/-! ## a successful handshake (R179) -/

@[simp] theorem State.establishSync_low (s : State) : (s.establishSync).low = s.low := rfl
@[simp] theorem State.establishSync_high (s : State) : (s.establishSync).high = s.high := rfl
@[simp] theorem State.establishSync_txbuf (s : State) : (s.establishSync).txbuf = s.txbuf := rfl
@[simp] theorem State.establishSync_rxexp (s : State) : (s.establishSync).rxexp = s.rxexp := rfl
@[simp] theorem State.establishSync_fsm (s : State) : (s.establishSync).fsm = s.fsm := rfl
@[simp] theorem State.establishSync_sync (s : State) : (s.establishSync).sync = .synced := rfl
@[simp] theorem State.establishSync_fault (s : State) : (s.establishSync).fault = none := rfl
@[simp] theorem State.establishSync_lock (s : State) : (s.establishSync).lock = s.lock := rfl
@[simp] theorem State.establishSync_cfg (s : State) : (s.establishSync).cfg = s.cfg := rfl
@[simp] theorem State.establishSync_spiCfg (s : State) : (s.establishSync).spiCfg = s.spiCfg := rfl
@[simp] theorem State.establishSync_params (s : State) : (s.establishSync).params = s.params := rfl
@[simp] theorem State.establishSync_handshake (s : State) : (s.establishSync).handshake = none := rfl
@[simp] theorem State.establishSync_requests (s : State) : (s.establishSync).requests = s.requests := rfl
@[simp] theorem State.establishSync_answers (s : State) : (s.establishSync).answers = s.answers := rfl
@[simp] theorem State.establishSync_draws (s : State) : (s.establishSync).draws = s.draws := rfl
@[simp] theorem State.establishSync_calls (s : State) : (s.establishSync).calls = s.calls := rfl
@[simp] theorem State.establishSync_results (s : State) : (s.establishSync).results = s.results := rfl

/-! ## a write of `fsm` (R29) -/

@[simp] theorem State.setFsm_low (s : State) (f : Fsm) : (s.setFsm f).low = s.low := rfl
@[simp] theorem State.setFsm_high (s : State) (f : Fsm) : (s.setFsm f).high = s.high := rfl
@[simp] theorem State.setFsm_txbuf (s : State) (f : Fsm) : (s.setFsm f).txbuf = s.txbuf := rfl
@[simp] theorem State.setFsm_rxexp (s : State) (f : Fsm) : (s.setFsm f).rxexp = s.rxexp := rfl
@[simp] theorem State.setFsm_fsm (s : State) (f : Fsm) : (s.setFsm f).fsm = f := rfl
@[simp] theorem State.setFsm_sync (s : State) (f : Fsm) : (s.setFsm f).sync = s.sync := rfl
@[simp] theorem State.setFsm_fault (s : State) (f : Fsm) : (s.setFsm f).fault = s.fault := rfl
@[simp] theorem State.setFsm_lock (s : State) (f : Fsm) : (s.setFsm f).lock = s.lock := rfl
@[simp] theorem State.setFsm_cfg (s : State) (f : Fsm) : (s.setFsm f).cfg = s.cfg := rfl
@[simp] theorem State.setFsm_spiCfg (s : State) (f : Fsm) : (s.setFsm f).spiCfg = s.spiCfg := rfl
@[simp] theorem State.setFsm_params (s : State) (f : Fsm) : (s.setFsm f).params = s.params := rfl
@[simp] theorem State.setFsm_handshake (s : State) (f : Fsm) : (s.setFsm f).handshake = s.handshake := rfl
@[simp] theorem State.setFsm_requests (s : State) (f : Fsm) : (s.setFsm f).requests = s.requests := rfl
@[simp] theorem State.setFsm_answers (s : State) (f : Fsm) : (s.setFsm f).answers = s.answers := rfl
@[simp] theorem State.setFsm_draws (s : State) (f : Fsm) : (s.setFsm f).draws = s.draws := rfl
@[simp] theorem State.setFsm_calls (s : State) (f : Fsm) : (s.setFsm f).calls = s.calls := rfl
@[simp] theorem State.setFsm_results (s : State) (f : Fsm) : (s.setFsm f).results = s.results := rfl

/-! ## the next round of a handshake (R179) -/

@[simp] theorem State.setRound_low (s : State) (r : Round) : (s.setRound r).low = s.low := rfl
@[simp] theorem State.setRound_high (s : State) (r : Round) : (s.setRound r).high = s.high := rfl
@[simp] theorem State.setRound_txbuf (s : State) (r : Round) : (s.setRound r).txbuf = s.txbuf := rfl
@[simp] theorem State.setRound_rxexp (s : State) (r : Round) : (s.setRound r).rxexp = s.rxexp := rfl
@[simp] theorem State.setRound_fsm (s : State) (r : Round) : (s.setRound r).fsm = s.fsm := rfl
@[simp] theorem State.setRound_sync (s : State) (r : Round) : (s.setRound r).sync = s.sync := rfl
@[simp] theorem State.setRound_fault (s : State) (r : Round) : (s.setRound r).fault = s.fault := rfl
@[simp] theorem State.setRound_lock (s : State) (r : Round) : (s.setRound r).lock = s.lock := rfl
@[simp] theorem State.setRound_cfg (s : State) (r : Round) : (s.setRound r).cfg = s.cfg := rfl
@[simp] theorem State.setRound_spiCfg (s : State) (r : Round) : (s.setRound r).spiCfg = s.spiCfg := rfl
@[simp] theorem State.setRound_params (s : State) (r : Round) : (s.setRound r).params = s.params := rfl
@[simp] theorem State.setRound_handshake (s : State) (r : Round) : (s.setRound r).handshake = some r := rfl
@[simp] theorem State.setRound_requests (s : State) (r : Round) : (s.setRound r).requests = s.requests := rfl
@[simp] theorem State.setRound_answers (s : State) (r : Round) : (s.setRound r).answers = s.answers := rfl
@[simp] theorem State.setRound_draws (s : State) (r : Round) : (s.setRound r).draws = s.draws := rfl
@[simp] theorem State.setRound_calls (s : State) (r : Round) : (s.setRound r).calls = s.calls := rfl
@[simp] theorem State.setRound_results (s : State) (r : Round) : (s.setRound r).results = s.results := rfl

/-! ## the shadow writes (R123) -/

@[simp] theorem State.recordAll_low (s : State) (is : List Instr) : (s.recordAll is).low = s.low := rfl
@[simp] theorem State.recordAll_high (s : State) (is : List Instr) : (s.recordAll is).high = s.high := rfl
@[simp] theorem State.recordAll_txbuf (s : State) (is : List Instr) : (s.recordAll is).txbuf = s.txbuf := rfl
@[simp] theorem State.recordAll_rxexp (s : State) (is : List Instr) : (s.recordAll is).rxexp = s.rxexp := rfl
@[simp] theorem State.recordAll_fsm (s : State) (is : List Instr) : (s.recordAll is).fsm = s.fsm := rfl
@[simp] theorem State.recordAll_sync (s : State) (is : List Instr) : (s.recordAll is).sync = s.sync := rfl
@[simp] theorem State.recordAll_fault (s : State) (is : List Instr) : (s.recordAll is).fault = s.fault := rfl
@[simp] theorem State.recordAll_lock (s : State) (is : List Instr) : (s.recordAll is).lock = s.lock := rfl
@[simp] theorem State.recordAll_cfg (s : State) (is : List Instr) : (s.recordAll is).cfg = is.foldl Shadow.record s.cfg := rfl
@[simp] theorem State.recordAll_spiCfg (s : State) (is : List Instr) : (s.recordAll is).spiCfg = s.spiCfg := rfl
@[simp] theorem State.recordAll_params (s : State) (is : List Instr) : (s.recordAll is).params = s.params := rfl
@[simp] theorem State.recordAll_handshake (s : State) (is : List Instr) : (s.recordAll is).handshake = s.handshake := rfl
@[simp] theorem State.recordAll_requests (s : State) (is : List Instr) : (s.recordAll is).requests = s.requests := rfl
@[simp] theorem State.recordAll_answers (s : State) (is : List Instr) : (s.recordAll is).answers = s.answers := rfl
@[simp] theorem State.recordAll_draws (s : State) (is : List Instr) : (s.recordAll is).draws = s.draws := rfl
@[simp] theorem State.recordAll_calls (s : State) (is : List Instr) : (s.recordAll is).calls = s.calls := rfl
@[simp] theorem State.recordAll_results (s : State) (is : List Instr) : (s.recordAll is).results = s.results := rfl

/-! ## the acceptance of a request (R60) -/

@[simp] theorem State.accept_low (s : State) (waiting : List Request) : (s.accept waiting).low = s.low := rfl
@[simp] theorem State.accept_high (s : State) (waiting : List Request) : (s.accept waiting).high = s.high := rfl
@[simp] theorem State.accept_txbuf (s : State) (waiting : List Request) : (s.accept waiting).txbuf = s.txbuf := rfl
@[simp] theorem State.accept_rxexp (s : State) (waiting : List Request) : (s.accept waiting).rxexp = s.rxexp := rfl
@[simp] theorem State.accept_fsm (s : State) (waiting : List Request) : (s.accept waiting).fsm = s.fsm := rfl
@[simp] theorem State.accept_sync (s : State) (waiting : List Request) : (s.accept waiting).sync = s.sync := rfl
@[simp] theorem State.accept_fault (s : State) (waiting : List Request) : (s.accept waiting).fault = s.fault := rfl
@[simp] theorem State.accept_lock (s : State) (waiting : List Request) : (s.accept waiting).lock = .held := rfl
@[simp] theorem State.accept_cfg (s : State) (waiting : List Request) : (s.accept waiting).cfg = s.cfg := rfl
@[simp] theorem State.accept_spiCfg (s : State) (waiting : List Request) : (s.accept waiting).spiCfg = s.spiCfg := rfl
@[simp] theorem State.accept_params (s : State) (waiting : List Request) : (s.accept waiting).params = s.params := rfl
@[simp] theorem State.accept_handshake (s : State) (waiting : List Request) : (s.accept waiting).handshake = s.handshake := rfl
@[simp] theorem State.accept_requests (s : State) (waiting : List Request) : (s.accept waiting).requests = waiting := rfl
@[simp] theorem State.accept_answers (s : State) (waiting : List Request) : (s.accept waiting).answers = s.answers := rfl
@[simp] theorem State.accept_draws (s : State) (waiting : List Request) : (s.accept waiting).draws = s.draws := rfl
@[simp] theorem State.accept_calls (s : State) (waiting : List Request) : (s.accept waiting).calls = s.calls := rfl
@[simp] theorem State.accept_results (s : State) (waiting : List Request) : (s.accept waiting).results = s.results := rfl

/-! ## a write of a pin register (R20) -/

@[simp] theorem State.setPin_txbuf (s : State) (r : PinReg) (v : Byte) : (s.setPin r v).txbuf = s.txbuf := by
  cases r with
  | value b => cases b <;> rfl
  | direction b => cases b <;> rfl
@[simp] theorem State.setPin_rxexp (s : State) (r : PinReg) (v : Byte) : (s.setPin r v).rxexp = s.rxexp := by
  cases r with
  | value b => cases b <;> rfl
  | direction b => cases b <;> rfl
@[simp] theorem State.setPin_fsm (s : State) (r : PinReg) (v : Byte) : (s.setPin r v).fsm = s.fsm := by
  cases r with
  | value b => cases b <;> rfl
  | direction b => cases b <;> rfl
@[simp] theorem State.setPin_sync (s : State) (r : PinReg) (v : Byte) : (s.setPin r v).sync = s.sync := by
  cases r with
  | value b => cases b <;> rfl
  | direction b => cases b <;> rfl
@[simp] theorem State.setPin_fault (s : State) (r : PinReg) (v : Byte) : (s.setPin r v).fault = s.fault := by
  cases r with
  | value b => cases b <;> rfl
  | direction b => cases b <;> rfl
@[simp] theorem State.setPin_lock (s : State) (r : PinReg) (v : Byte) : (s.setPin r v).lock = s.lock := by
  cases r with
  | value b => cases b <;> rfl
  | direction b => cases b <;> rfl
@[simp] theorem State.setPin_cfg (s : State) (r : PinReg) (v : Byte) : (s.setPin r v).cfg = s.cfg := by
  cases r with
  | value b => cases b <;> rfl
  | direction b => cases b <;> rfl
@[simp] theorem State.setPin_spiCfg (s : State) (r : PinReg) (v : Byte) : (s.setPin r v).spiCfg = s.spiCfg := by
  cases r with
  | value b => cases b <;> rfl
  | direction b => cases b <;> rfl
@[simp] theorem State.setPin_params (s : State) (r : PinReg) (v : Byte) : (s.setPin r v).params = s.params := by
  cases r with
  | value b => cases b <;> rfl
  | direction b => cases b <;> rfl
@[simp] theorem State.setPin_handshake (s : State) (r : PinReg) (v : Byte) : (s.setPin r v).handshake = s.handshake := by
  cases r with
  | value b => cases b <;> rfl
  | direction b => cases b <;> rfl
@[simp] theorem State.setPin_requests (s : State) (r : PinReg) (v : Byte) : (s.setPin r v).requests = s.requests := by
  cases r with
  | value b => cases b <;> rfl
  | direction b => cases b <;> rfl
@[simp] theorem State.setPin_answers (s : State) (r : PinReg) (v : Byte) : (s.setPin r v).answers = s.answers := by
  cases r with
  | value b => cases b <;> rfl
  | direction b => cases b <;> rfl
@[simp] theorem State.setPin_draws (s : State) (r : PinReg) (v : Byte) : (s.setPin r v).draws = s.draws := by
  cases r with
  | value b => cases b <;> rfl
  | direction b => cases b <;> rfl
@[simp] theorem State.setPin_calls (s : State) (r : PinReg) (v : Byte) : (s.setPin r v).calls = s.calls := by
  cases r with
  | value b => cases b <;> rfl
  | direction b => cases b <;> rfl
@[simp] theorem State.setPin_results (s : State) (r : PinReg) (v : Byte) : (s.setPin r v).results = s.results := by
  cases r with
  | value b => cases b <;> rfl
  | direction b => cases b <;> rfl

@[simp] theorem State.setLowV_low (s : State) (v : Byte) : (s.setPin (.value .low) v).low = { s.low with value := v } := rfl
@[simp] theorem State.setLowV_high (s : State) (v : Byte) : (s.setPin (.value .low) v).high = s.high := rfl
@[simp] theorem State.setLowD_low (s : State) (d : Byte) : (s.setPin (.direction .low) d).low = { s.low with direction := d } := rfl
@[simp] theorem State.setLowD_high (s : State) (d : Byte) : (s.setPin (.direction .low) d).high = s.high := rfl

/-- The four pin registers do not alias (R20). -/
theorem State.pin_setPin (s : State) (r r' : PinReg) (v : Byte) :
    (s.setPin r v).pin r' = if r' = r then v else s.pin r' := by
  rcases r with b | b <;> rcases r' with b' | b' <;> cases b <;> cases b' <;> rfl

/-- Taking an error changes the observation and, for a fatal one, what R243 and R244 name. -/
theorem State.raise_eq (s : State) (e : OpError) :
    s.raise e = match e.fatal with
      | some f => (s.enterFatal f).reply (.error e)
      | none => s.reply (.error e) := by
  cases e <;> rfl

@[simp] theorem State.raise_results (s : State) (e : OpError) : (s.raise e).results = s.results ++ [.error e] := by
  cases e <;> rfl
@[simp] theorem State.raise_low (s : State) (e : OpError) : (s.raise e).low = s.low := by cases e <;> rfl
@[simp] theorem State.raise_high (s : State) (e : OpError) : (s.raise e).high = s.high := by cases e <;> rfl
@[simp] theorem State.raise_lock (s : State) (e : OpError) : (s.raise e).lock = s.lock := by cases e <;> rfl
@[simp] theorem State.raise_spiCfg (s : State) (e : OpError) : (s.raise e).spiCfg = s.spiCfg := by cases e <;> rfl
@[simp] theorem State.raise_params (s : State) (e : OpError) : (s.raise e).params = s.params := by cases e <;> rfl
@[simp] theorem State.raise_requests (s : State) (e : OpError) : (s.raise e).requests = s.requests := by cases e <;> rfl
@[simp] theorem State.raise_answers (s : State) (e : OpError) : (s.raise e).answers = s.answers := by cases e <;> rfl
@[simp] theorem State.raise_draws (s : State) (e : OpError) : (s.raise e).draws = s.draws := by cases e <;> rfl
@[simp] theorem State.raise_calls (s : State) (e : OpError) : (s.raise e).calls = s.calls := by cases e <;> rfl

end Sys2Proof.Machine
end

