-- ==== Sys2Proof/Laws/Ops.lean ====
section
/-! SUPPORT. One lemma per shared operation that says everything it can do: the transport, the buffer, the emission of pin
states, the I2C and SPI cores, and the slices of a response. -/

namespace Sys2Proof.Machine

/-! ## Steps that may fail -/

@[simp] theorem andThen_ok {α β : Type} (v : α) (s : State) (k : α → State → Attempt β) :
    andThen (.ok v, s) k = k v s := rfl

@[simp] theorem andThen_error {α β : Type} (e : OpError) (s : State) (k : α → State → Attempt β) :
    andThen (.error e, s) k = (.error e, s) := rfl

@[simp] theorem finish_ok {α : Type} (v : α) (s : State) (k : α → State → State) :
    finish (.ok v, s) k = k v s := rfl

@[simp] theorem finish_error {α : Type} (e : OpError) (s : State) (k : α → State → State) :
    finish (.error e, s) k = s.raise e := rfl

/-! ## The transport -/

/-- `T.write` gives the state after the call, and succeeds exactly when every byte is reported written (R165). -/
theorem State.transportWrite_eq (s : State) (bytes : List Byte) :
    s.transportWrite bytes = (if s.answer.ok = true ∧ s.answer.count = bytes.length then .ok () else .error (.transportError .write),
      s.afterCall (.write bytes)) := by
  simp only [State.transportWrite, Bool.and_eq_true, beq_iff_eq]
  split <;> rfl

/-- `T.read(n)` gives the state after the call, and succeeds exactly when `n` bytes are returned (R165). -/
theorem State.transportRead_eq (s : State) (n : Nat) :
    s.transportRead n = (if s.answer.ok = true ∧ (s.answer.bytes.take n).length = n then .ok (s.answer.bytes.take n)
      else .error (.transportError .read), s.afterCall (.read n)) := by
  simp only [State.transportRead, Bool.and_eq_true, beq_iff_eq]
  split <;> rfl

/-- A scripted answer is the one the next call gets (R58). -/
theorem State.answer_of_answers {s : State} {a : Answer} {rest : List Answer} (h : s.answers = a :: rest) :
    s.answer = a := by
  simp [State.answer, h]

/-- A call answered by the script leaves the rest of the script. -/
theorem State.afterCall_of_answers {s : State} {a : Answer} {rest : List Answer} (h : s.answers = a :: rest)
    (c : TransportCall) :
    s.afterCall c = { s with calls := s.calls ++ [c], answers := rest } := by
  simp [State.afterCall, h]

/-! ## flush -/

/-- The transport takes the write of a flush (R165). -/
def State.takesWrite (s : State) : Prop := s.answer.ok = true ∧ s.answer.count = s.txbuf.length

/-- The transport then serves the read of the flush (R165). -/
def State.servesRead (s : State) : Prop :=
  (s.afterCall (.write s.txbuf)).answer.ok = true ∧
    ((s.afterCall (.write s.txbuf)).answer.bytes.take s.rxexp.sum).length = s.rxexp.sum

/-- Everything a flush can do, and when it does it (R162, R164, R165). -/
theorem State.flush_cases {s t : State} {r : Except OpError (List Byte)} (h : s.flush = (r, t)) :
    (s.txbuf = [] ∧ r = .ok [] ∧ t = { s with rxexp := [] }) ∨
    ((s.txbuf ≠ [] ∧ ¬ s.takesWrite) ∧ r = .error (.transportError .write) ∧ t = s.afterCall (.write s.txbuf)) ∨
    ((s.txbuf ≠ [] ∧ s.takesWrite) ∧ s.rxexp.sum = 0 ∧ r = .ok [] ∧ t = (s.afterCall (.write s.txbuf)).clearBuffers) ∨
    ((s.txbuf ≠ [] ∧ s.takesWrite ∧ ¬ s.servesRead) ∧ s.rxexp.sum ≠ 0 ∧ r = .error (.transportError .read) ∧
      t = (s.afterCall (.write s.txbuf)).afterCall (.read s.rxexp.sum)) ∨
    (∃ resp, (s.txbuf ≠ [] ∧ s.takesWrite ∧ s.servesRead) ∧ s.rxexp.sum ≠ 0 ∧ r = .ok resp ∧
      resp = (s.afterCall (.write s.txbuf)).answer.bytes.take s.rxexp.sum ∧
      t = ((s.afterCall (.write s.txbuf)).afterCall (.read s.rxexp.sum)).clearBuffers) := by
  by_cases hb : s.txbuf = []
  · simp only [State.flush, if_pos hb, Prod.mk.injEq] at h
    exact .inl ⟨hb, h.1.symm, h.2.symm⟩
  simp only [State.flush, if_neg hb, State.transportWrite_eq, State.transportRead_eq] at h
  by_cases hw : s.answer.ok = true ∧ s.answer.count = s.txbuf.length
  · rw [if_pos hw, andThen_ok] at h
    by_cases hz : s.rxexp.sum = 0
    · simp only [if_pos hz, Prod.mk.injEq] at h
      exact .inr (.inr (.inl ⟨⟨hb, hw⟩, hz, h.1.symm, h.2.symm⟩))
    rw [if_neg hz] at h
    by_cases hr : (s.afterCall (.write s.txbuf)).answer.ok = true ∧
        ((s.afterCall (.write s.txbuf)).answer.bytes.take s.rxexp.sum).length = s.rxexp.sum
    · rw [if_pos hr, andThen_ok, Prod.mk.injEq] at h
      exact .inr (.inr (.inr (.inr ⟨_, ⟨hb, hw, hr⟩, hz, h.1.symm, rfl, h.2.symm⟩)))
    · rw [if_neg hr, andThen_error, Prod.mk.injEq] at h
      exact .inr (.inr (.inr (.inl ⟨⟨hb, hw, hr⟩, hz, h.1.symm, h.2.symm⟩)))
  · rw [if_neg hw, andThen_error, Prod.mk.injEq] at h
    exact .inr (.inl ⟨⟨hb, hw⟩, h.1.symm, h.2.symm⟩)

/-- A flush whose two calls are answered as asked returns the response and clears both buffers (R162). -/
theorem State.flush_read {s : State} {w r : Answer} {rest : List Answer} {resp : List Byte}
    (hb : s.txbuf ≠ []) (hn : s.rxexp.sum ≠ 0) (ha : s.answers = w :: r :: rest) (hw : w.ok = true)
    (hc : w.count = s.txbuf.length) (hr : r.ok = true) (ht : r.bytes.take s.rxexp.sum = resp)
    (hl : resp.length = s.rxexp.sum) :
    s.flush = (.ok resp,
      { s with txbuf := [], rxexp := [], answers := rest, calls := s.calls ++ [.write s.txbuf, .read s.rxexp.sum] }) := by
  have h1 := State.afterCall_of_answers ha (.write s.txbuf)
  have h2 : (s.afterCall (.write s.txbuf)).answers = r :: rest := by rw [h1]
  simp only [State.flush, if_neg hb, State.transportWrite_eq, State.answer_of_answers ha, hw, hc, and_self, if_true,
    andThen, if_neg hn, State.transportRead_eq, State.answer_of_answers h2, hr, ht, hl]
  simp [State.clearBuffers, State.afterCall, ha]

/-- A flush that expects no response makes one write (R164 (b)). -/
theorem State.flush_write {s : State} {w : Answer} {rest : List Answer}
    (hb : s.txbuf ≠ []) (hn : s.rxexp.sum = 0) (ha : s.answers = w :: rest) (hw : w.ok = true)
    (hc : w.count = s.txbuf.length) :
    s.flush = (.ok [],
      { s with txbuf := [], rxexp := [], answers := rest, calls := s.calls ++ [.write s.txbuf] }) := by
  simp only [State.flush, if_neg hb, State.transportWrite_eq, State.answer_of_answers ha, hw, hc, and_self, if_true,
    andThen, hn]
  simp [State.clearBuffers, State.afterCall, ha]

/-! ## Emission of pin states -/

/-- `EmitLow(k)` appends `k` copies of the bank `LOW` command and as many zero lengths (R187). -/
theorem State.emitLow_eq (s : State) (k : Nat) :
    s.emitLow k = { s with
      txbuf := s.txbuf ++ (List.replicate k [0x80#8, s.low.value, s.low.direction]).flatten
      rxexp := s.rxexp ++ List.replicate k 0 } := by
  induction k generalizing s with
  | zero => simp [State.emitLow]
  | succ k ih =>
    rw [State.emitLow, ih]
    simp [State.enqueue, Encoder.setDataBitsLowByte, List.replicate_succ]

/-- `SendCore(b)` (R193): twelve bytes in four fragments, and the data pin's direction 0 at the end. -/
theorem State.sendCore_eq (s : State) (b : Byte) :
    s.sendCore b = { s with
      low := { s.low with direction := unsetBit (setBit s.low.direction s.params.sdaOutBit) s.params.sdaOutBit }
      txbuf := s.txbuf ++ [0x80#8, s.low.value, setBit s.low.direction s.params.sdaOutBit, 0x11#8, 0x00#8, 0x00#8, b,
        0x80#8, s.low.value, unsetBit (setBit s.low.direction s.params.sdaOutBit) s.params.sdaOutBit, 0x22#8, 0x00#8]
      rxexp := s.rxexp ++ [0, 0, 0, 1] } := by
  have hb : Encoder.bytesOutMsbFall [b] = .ok ([0x11#8, 0x00#8, 0x00#8, b], 0) := by
    simp [Encoder.bytesOutMsbFall, byteCommand, Config.maxLen, lo8, hi8]
  have hi : Encoder.bitsInMsbRise 1 = .ok ([0x22#8, 0x00#8], 1) := by decide
  simp [State.sendCore, State.driveSda, State.releaseSda, State.emitLow, hb, hi, State.enqueueEncoded, State.enqueue,
    Encoder.setDataBitsLowByte, State.setPin]

/-- The fragments of `ReceiveByte` (R200): twelve bytes in five fragments. -/
theorem State.receiveCore_eq (s : State) (ack : Bool) :
    s.receiveCore ack = { s with
      low := { s.low with direction := unsetBit (setBit s.low.direction s.params.sdaOutBit) s.params.sdaOutBit }
      txbuf := s.txbuf ++ [0x22#8, 0x07#8, 0x80#8, s.low.value, setBit s.low.direction s.params.sdaOutBit,
        0x13#8, 0x00#8, ackByte ack, 0x80#8, s.low.value,
        unsetBit (setBit s.low.direction s.params.sdaOutBit) s.params.sdaOutBit, 0x87#8]
      rxexp := s.rxexp ++ [1, 0, 0, 0, 0] } := by
  have hi : Encoder.bitsInMsbRise 8 = .ok ([0x22#8, 0x07#8], 1) := by decide
  have hb : Encoder.bitsOutMsbFall 1 (ackByte ack) = .ok ([0x13#8, 0x00#8, ackByte ack], 0) := by
    simp [Encoder.bitsOutMsbFall, bitCommand, Config.maxBits, lo8]
  simp [State.receiveCore, State.driveSda, State.releaseSda, State.emitLow, hb, hi, State.enqueueEncoded, State.enqueue,
    Encoder.setDataBitsLowByte, Encoder.sendImmediate, State.setPin]

/-- Under an automatic policy a transfer is three fragments: select, the command, deselect (R219, R222). -/
theorem State.spiTransfer_auto (s : State) (cfg : SpiConfig) (cmd : Encoded) (level : Bool)
    (h : cfg.chipSelectPolicy.activeLevel = some level) :
    s.spiTransfer cfg cmd =
      let v1 := putBit s.low.value cfg.chipSelectPin level
      let v2 := putBit v1 cfg.chipSelectPin cfg.chipSelectPolicy.idleLevel
      { s with
        low := { s.low with value := v2 }
        txbuf := s.txbuf ++ ([0x80#8, v1, s.low.direction] ++ cmd.1 ++ [0x80#8, v2, s.low.direction])
        rxexp := s.rxexp ++ [0, cmd.2, 0] } := by
  simp [State.spiTransfer, State.assertCs, State.deassertCs, h, State.emitLow, State.enqueue, Encoder.setDataBitsLowByte,
    State.setPin]

/-- Under a Default policy a transfer is the command alone (R219). -/
theorem State.spiTransfer_manual (s : State) (cfg : SpiConfig) (cmd : Encoded)
    (h : cfg.chipSelectPolicy.activeLevel = none) :
    s.spiTransfer cfg cmd = s.enqueue cmd := by
  simp [State.spiTransfer, State.assertCs, State.deassertCs, h]

/-! ## Bits -/

/-- Bit `j` of `1 << i`. -/
theorem getLsbD_bitMask (i j : Nat) (hj : j < 8) : (bitMask i).getLsbD j = decide (j = i) := by
  simp only [bitMask, BitVec.getLsbD_shiftLeft, hj, decide_true, Bool.true_and]
  by_cases h : j < i
  · simp [h, Nat.ne_of_lt h]
  · have : (1#8).getLsbD (j - i) = decide (j - i = 0) := by
      simp only [BitVec.getLsbD_one]; simp
    rw [this]
    have : (j - i = 0) ↔ j = i := by omega
    simp [h, this]

/-- Bit `j` after `set_bit` (R101). -/
theorem getLsbD_setBit (r : Byte) (i j : Nat) (hj : j < 8) :
    (setBit r i).getLsbD j = (decide (j = i) || r.getLsbD j) := by
  simp [setBit, getLsbD_bitMask i j hj, Bool.or_comm]

/-- Bit `j` after `unset_bit` (R102). -/
theorem getLsbD_unsetBit (r : Byte) (i j : Nat) (hj : j < 8) :
    (unsetBit r i).getLsbD j = (!decide (j = i) && r.getLsbD j) := by
  have : (0xFF#8).getLsbD j = true := by
    have h := BitVec.getLsbD_allOnes (v := 8) (i := j)
    simpa [hj] using h
  simp [unsetBit, getLsbD_bitMask i j hj, this, Bool.and_comm]

/-- Bit `j` after `toggle_bit` (R103). -/
theorem getLsbD_toggleBit (r : Byte) (i j : Nat) (hj : j < 8) :
    (toggleBit r i).getLsbD j = (r.getLsbD j ^^ decide (j = i)) := by
  simp [toggleBit, getLsbD_bitMask i j hj]

/-- Clearing a bit just set is clearing it. -/
theorem unsetBit_setBit (r : Byte) (i : Nat) : unsetBit (setBit r i) i = unsetBit r i := by
  apply BitVec.eq_of_getLsbD_eq
  intro j hj
  rw [getLsbD_unsetBit _ _ _ hj, getLsbD_setBit _ _ _ hj, getLsbD_unsetBit _ _ _ hj]
  by_cases h : j = i <;> simp [h]

/-! ## Slices -/

/-- The fragment between `before` and `after` owns the bytes between theirs (R163). -/
theorem slice_middle (before after : List Nat) (e : Nat) (x y z : List Byte)
    (hx : x.length = before.sum) (hy : y.length = e) :
    slice (before ++ e :: after) (x ++ y ++ z) before.length = y := by
  have h1 : ((before ++ e :: after).take before.length).sum = x.length := by simp [hx]
  have h2 : (before ++ e :: after).getD before.length 0 = y.length := by
    simp [List.getD_eq_getElem?_getD, hy]
  rw [slice, h1, h2]
  simp

end Sys2Proof.Machine
end

