-- ==== Sys2Proof/Laws/Handshake.lean ====
section
/-! SUPPORT. Everything a poll, an echo check and a probe round can do (R177, R178). -/

namespace Sys2Proof.Machine

/-- What a probe round can change: the calls, and the answers they use up. -/
def State.OnlyCalls (s t : State) : Prop :=
  ∃ answers draws calls, t = { s with answers := answers, draws := draws, calls := calls }

theorem State.onlyCalls_refl (s : State) : s.OnlyCalls s := ⟨_, _, _, rfl⟩

theorem State.onlyCalls_afterCall (s : State) (c : TransportCall) : s.OnlyCalls (s.afterCall c) := ⟨_, _, _, rfl⟩

theorem State.OnlyCalls.trans {s t u : State} (h : s.OnlyCalls t) (h' : t.OnlyCalls u) : s.OnlyCalls u := by
  obtain ⟨_, _, _, rfl⟩ := h
  obtain ⟨_, _, _, rfl⟩ := h'
  exact ⟨_, _, _, rfl⟩

/-- `T.bytes_available` (R177). -/
theorem State.transportAvailable_eq (s : State) :
    s.transportAvailable = (if s.answer.ok = true then .ok s.answer.count else .error (.transportError .status),
      s.afterCall .bytesAvailable) := by
  simp only [State.transportAvailable]
  split <;> rfl

/-- A poll only makes calls, at most as many as its limit, all of them status calls (R178). -/
theorem State.poll_calls (s : State) (k : Nat) :
    s.OnlyCalls (s.poll k).2 ∧
    ∃ j ≤ k, (s.poll k).2.calls = s.calls ++ List.replicate j .bytesAvailable := by
  induction k generalizing s with
  | zero => exact ⟨s.onlyCalls_refl, 0, Nat.le_refl _, by simp [State.poll]⟩
  | succ k ih =>
    have h1 := s.onlyCalls_afterCall .bytesAvailable
    have one : ∃ j ≤ k + 1, (s.afterCall .bytesAvailable).calls = s.calls ++ List.replicate j .bytesAvailable :=
      ⟨1, by omega, rfl⟩
    rw [State.poll, State.transportAvailable_eq]
    by_cases ho : s.answer.ok = true
    · rw [if_pos ho, andThen_ok]
      by_cases hn : s.answer.count = 0
      · rw [if_pos hn]
        obtain ⟨h2, j, hj, hc⟩ := ih (s.afterCall .bytesAvailable)
        refine ⟨h1.trans h2, j + 1, by omega, ?_⟩
        rw [hc]
        simp [List.replicate_succ]
      · rw [if_neg hn]
        exact ⟨h1, one⟩
    · rw [if_neg ho, andThen_error]
      exact ⟨h1, one⟩

/-- A poll answered by zeros and then a count ends at that count (R177). -/
theorem State.poll_scripted {s : State} {zeros rest : List Answer} {p : Answer} {k : Nat}
    (hz : ∀ a ∈ zeros, a.ok = true ∧ a.count = 0) (hp : p.ok = true) (hc : p.count ≠ 0) (hk : zeros.length < k)
    (ha : s.answers = zeros ++ p :: rest) :
    s.poll k = (.ok p.count, { s with
      answers := rest, calls := s.calls ++ List.replicate (zeros.length + 1) .bytesAvailable }) := by
  induction zeros generalizing s k with
  | nil =>
    obtain ⟨k, rfl⟩ : ∃ m, k = m + 1 := ⟨k - 1, by simp at hk; omega⟩
    simp only [List.nil_append] at ha
    rw [State.poll, State.transportAvailable_eq, State.answer_of_answers ha, if_pos hp, andThen_ok, if_neg hc,
      State.afterCall_of_answers ha]
    rfl
  | cons z zs ih =>
    obtain ⟨k, rfl⟩ : ∃ m, k = m + 1 := ⟨k - 1, by simp at hk; omega⟩
    simp only [List.cons_append] at ha
    obtain ⟨ho, hzero⟩ := hz z (by simp)
    rw [State.poll, State.transportAvailable_eq, State.answer_of_answers ha, if_pos ho, andThen_ok, if_pos hzero,
      State.afterCall_of_answers ha, ih (fun a h => hz a (by simp [h])) (by simpa using hk) rfl]
    simp [List.replicate_succ]

/-- A poll that fails after zeros ends the polls with its error (R177). -/
theorem State.poll_failed {s : State} {zeros rest : List Answer} {p : Answer} {k : Nat}
    (hz : ∀ a ∈ zeros, a.ok = true ∧ a.count = 0) (hp : p.ok = false) (hk : zeros.length < k)
    (ha : s.answers = zeros ++ p :: rest) :
    s.poll k = (.error (.transportError .status), { s with
      answers := rest, calls := s.calls ++ List.replicate (zeros.length + 1) .bytesAvailable }) := by
  induction zeros generalizing s k with
  | nil =>
    obtain ⟨k, rfl⟩ : ∃ m, k = m + 1 := ⟨k - 1, by simp at hk; omega⟩
    simp only [List.nil_append] at ha
    rw [State.poll, State.transportAvailable_eq, State.answer_of_answers ha, if_neg (by simp [hp]), andThen_error,
      State.afterCall_of_answers ha]
    rfl
  | cons z zs ih =>
    obtain ⟨k, rfl⟩ : ∃ m, k = m + 1 := ⟨k - 1, by simp at hk; omega⟩
    simp only [List.cons_append] at ha
    obtain ⟨ho, hzero⟩ := hz z (by simp)
    rw [State.poll, State.transportAvailable_eq, State.answer_of_answers ha, if_pos ho, andThen_ok,
      if_pos hzero, State.afterCall_of_answers ha, ih (fun a h => hz a (by simp [h])) (by simp at hk; omega) rfl]
    simp [List.replicate_succ]

/-- A poll answered by zeros up to its limit gives up (R178). -/
theorem State.poll_silence {s : State} {zeros rest : List Answer} {k : Nat}
    (hz : ∀ a ∈ zeros, a.ok = true ∧ a.count = 0) (hk : zeros.length = k) (ha : s.answers = zeros ++ rest) :
    s.poll k = (.ok 0, { s with answers := rest, calls := s.calls ++ List.replicate k .bytesAvailable }) := by
  subst hk
  induction zeros generalizing s with
  | nil =>
    simp only [List.nil_append] at ha
    simp [State.poll, ← ha]
  | cons z zs ih =>
    simp only [List.cons_append] at ha
    obtain ⟨ho, hzero⟩ := hz z (by simp)
    rw [List.length_cons, State.poll, State.transportAvailable_eq, State.answer_of_answers ha, if_pos ho, andThen_ok,
      if_pos hzero, State.afterCall_of_answers ha, ih (fun a h => hz a (by simp [h])) rfl]
    simp [List.replicate_succ]

/-- An echo check only makes calls, one at most, a read. -/
theorem State.checkEcho_calls (s : State) (x : Byte) (n : Nat) :
    s.OnlyCalls (s.checkEcho x n).2 ∧
    ((s.checkEcho x n).2.calls = s.calls ∨ (s.checkEcho x n).2.calls = s.calls ++ [.read n]) := by
  by_cases hn : n = 0
  · rw [State.checkEcho, if_pos hn]
    exact ⟨s.onlyCalls_refl, .inl rfl⟩
  have h1 := s.onlyCalls_afterCall (.read n)
  rw [State.checkEcho, if_neg hn, State.transportRead_eq]
  by_cases hr : s.answer.ok = true ∧ (s.answer.bytes.take n).length = n
  · rw [if_pos hr, andThen_ok]
    split <;> exact ⟨h1, .inr rfl⟩
  · rw [if_neg hr, andThen_error]
    exact ⟨h1, .inr rfl⟩

/-- A probe round only makes calls (R177): the write of its byte, then at most as many polls as the limit, then at most
one read. -/
theorem State.probe_calls (s : State) (x : Byte) :
    s.OnlyCalls (s.probe x).2 ∧
    ∃ j ≤ s.params.syncPollLimit, ∃ last, (last = [] ∨ ∃ n, last = [.read n]) ∧
      (s.probe x).2.calls = s.calls ++ (.write [x] :: (List.replicate j .bytesAvailable ++ last)) := by
  have h1 := s.onlyCalls_afterCall (.write [x])
  rw [State.probe, State.transportWrite_eq]
  by_cases hw : s.answer.ok = true ∧ s.answer.count = [x].length
  · rw [if_pos hw, andThen_ok]
    obtain ⟨h2, j, hj, hc⟩ := (s.afterCall (.write [x])).poll_calls (s.afterCall (.write [x])).params.syncPollLimit
    generalize (s.afterCall (.write [x])).poll (s.afterCall (.write [x])).params.syncPollLimit = a at h2 hc ⊢
    obtain ⟨r, t⟩ := a
    cases r with
    | error e =>
      exact ⟨h1.trans h2, j, hj, [], .inl rfl, by simp_all⟩
    | ok n =>
      obtain ⟨h3, h4⟩ := t.checkEcho_calls x n
      rw [andThen_ok]
      refine ⟨(h1.trans h2).trans h3, j, hj, ?_⟩
      rcases h4 with h4 | h4
      · exact ⟨[], .inl rfl, by simp_all⟩
      · exact ⟨[.read n], .inr ⟨n, rfl⟩, by simp_all⟩
  · rw [if_neg hw, andThen_error]
    exact ⟨h1, 0, Nat.zero_le _, [], .inl rfl, rfl⟩

end Sys2Proof.Machine
end

