-- ==== Sys2Proof/Laws/Outcomes.lean ====
section
/-! SUPPORT. What follows from an operation having ended: the checks it passed, the two ends of a flush, of a probe round
and of the handshake, and what a transport that serves a call makes of it. -/

namespace Sys2Proof.Machine

/-! ## Checks -/

theorem whenSynced_synced {s : State} (h : s.sync = .synced) (body : Result) : whenSynced s body = body := by
  rw [whenSynced, h]

/-- An operation that ended was in service (R246). -/
theorem whenSynced_next {s t : State} {body : Result} (h : whenSynced s body = .next t) :
    s.sync = .synced ∧ body = .next t := by
  rw [whenSynced] at h
  cases hs : s.sync with
  | synced => rw [hs] at h; exact ⟨rfl, h⟩
  | unsynced => rw [hs] at h; cases h

/-- A gated operation that ended had its capability (R152). -/
theorem whenCapable_next {c : Bool} {t : State} {body : Result} (h : whenCapable c body = .next t) :
    c = true ∧ body = .next t := by
  rw [whenCapable] at h
  split at h
  · exact ⟨by assumption, h⟩
  · cases h

theorem whenConfigured_some {s : State} {cfg : SpiConfig} (h : s.spiCfg = some cfg) (body : SpiConfig → Result) :
    whenConfigured s body = body cfg := by
  rw [whenConfigured, h]

/-- A transfer that ended had a configuration (R222). -/
theorem whenConfigured_next {s t : State} {body : SpiConfig → Result} (h : whenConfigured s body = .next t) :
    ∃ cfg, s.spiCfg = some cfg ∧ body cfg = .next t := by
  rw [whenConfigured] at h
  split at h
  · next cfg hc => exact ⟨cfg, hc, h⟩
  · cases h

/-- A probe byte that was sent was sent in its round of a running handshake (R79). -/
theorem whenRound_next {s t : State} {r : Round} {body : Result} (h : whenRound s r body = .next t) :
    s.handshake = some r ∧ body = .next t := by
  rw [whenRound] at h
  split at h
  · exact ⟨‹_›, h⟩
  · exact nomatch (whenSynced_next h).2

/-- A bit operation that ended was in range, or changed nothing (R100). -/
theorem whenInRange_next {s t : State} {i : Nat} {body : Result} (h : whenInRange s i body = .next t) :
    t = s.raise (.rangeError i) ∨ body = .next t := by
  rw [whenInRange] at h
  split at h
  · cases h; exact .inl rfl
  · exact .inr h

/-- A write of a pin register changes the two banks at most. -/
theorem State.setPin_frame (s : State) (r : PinReg) (v : Byte) :
    ∃ low high, s.setPin r v = { s with low := low, high := high } := by
  rcases r with b | b <;> cases b <;> exact ⟨_, _, rfl⟩

/-! ## flush -/

/-- What a flush can change: the buffers, the calls, and the answers they use up. -/
def State.OnlyBuffers (s t : State) : Prop :=
  ∃ txbuf rxexp answers draws calls,
    t = { s with txbuf := txbuf, rxexp := rxexp, answers := answers, draws := draws, calls := calls }

theorem State.flush_onlyBuffers (s : State) : s.OnlyBuffers s.flush.2 := by
  rcases h : s.flush with ⟨r, t⟩
  rcases State.flush_cases h with ⟨_, _, rfl⟩ | ⟨_, _, rfl⟩ | ⟨_, _, _, rfl⟩ | ⟨_, _, _, rfl⟩ | ⟨_, _, _, _, _, rfl⟩ <;>
    exact ⟨_, _, _, _, _, rfl⟩

/-- A flush fails with a `TransportError` only (R165). -/
theorem State.flush_error {s : State} {e : OpError} (h : s.flush.1 = .error e) : ∃ f, e = .transportError f := by
  rcases hf : s.flush with ⟨r, t⟩
  rw [hf] at h
  rcases State.flush_cases hf with ⟨_, h1, _⟩ | ⟨_, h1, _⟩ | ⟨_, _, h1, _⟩ | ⟨_, _, h1, _⟩ | ⟨_, _, _, h1, _, _⟩ <;>
    subst h1 <;> cases h <;> exact ⟨_, rfl⟩

/-- The two ends of an operation whose last act is a flush. -/
theorem finish_flush (s : State) (k : List Byte → State → State) :
    (∃ resp t, s.OnlyBuffers t ∧ s.flush = (.ok resp, t) ∧ finish s.flush k = k resp t) ∨
    (∃ f t, s.OnlyBuffers t ∧ s.flush = (.error (.transportError f), t) ∧
      finish s.flush k = t.raise (.transportError f)) := by
  have h1 := s.flush_onlyBuffers
  have h2 := @State.flush_error s
  generalize s.flush = a at h1 h2
  obtain ⟨r, t⟩ := a
  cases r with
  | ok v => exact .inl ⟨v, t, h1, rfl, rfl⟩
  | error e =>
    obtain ⟨f, rfl⟩ := h2 rfl
    exact .inr ⟨f, t, h1, rfl, rfl⟩

/-- A flush that the transport serves (R162): `s0` is the state the operation began in. -/
theorem State.flush_served {s s0 : State} {out resp : List Byte} {n : Nat} {rest : List Answer}
    (h : s0.Served out n resp rest) (ho : s.txbuf = out) (hn : s.rxexp.sum = n) (ha : s.answers = s0.answers)
    (hb : out ≠ []) :
    s.flush = (.ok resp, { s with
      txbuf := [], rxexp := [], answers := rest, calls := s.calls ++ flushCalls out n }) := by
  subst ho hn
  simp only [State.Served, ← ha] at h
  by_cases hn : s.rxexp.sum = 0
  · rw [if_pos hn] at h
    obtain ⟨rfl, w, ha, hw, hc⟩ := h
    rw [State.flush_write hb hn ha hw hc]
    simp [flushCalls, hn]
  · rw [if_neg hn] at h
    obtain ⟨w, r, ha, hw, hc, hr, ht, hl⟩ := h
    rw [State.flush_read hb hn ha hw hc hr ht hl]
    simp [flushCalls, hn]

/-! ## The probe round and the handshake -/

/-- A poll fails with a `TransportError` only (R177). -/
theorem State.poll_error {s : State} {k : Nat} {e : OpError} (h : (s.poll k).1 = .error e) :
    ∃ f, e = .transportError f := by
  induction k generalizing s with
  | zero => cases h
  | succ k ih =>
    rw [State.poll, State.transportAvailable_eq] at h
    by_cases ho : s.answer.ok = true
    · rw [if_pos ho, andThen_ok] at h
      split at h
      · exact ih h
      · cases h
    · rw [if_neg ho, andThen_error] at h; cases h; exact ⟨_, rfl⟩

/-- A probe round fails with one of the two fatal errors only (R177). -/
theorem State.probe_error {s : State} {x : Byte} {e : OpError} (h : (s.probe x).1 = .error e) :
    ∃ f, e.fatal = some f := by
  rw [State.probe, State.transportWrite_eq] at h
  split at h
  · rw [andThen_ok] at h
    have hp := @State.poll_error (s.afterCall (.write [x])) (s.afterCall (.write [x])).params.syncPollLimit
    generalize (s.afterCall (.write [x])).poll (s.afterCall (.write [x])).params.syncPollLimit = a at hp h
    obtain ⟨r, t⟩ := a
    cases r with
    | error e' =>
      cases h
      obtain ⟨f, rfl⟩ := hp rfl
      exact ⟨_, rfl⟩
    | ok n =>
      rw [andThen_ok, State.checkEcho] at h
      split at h
      · cases h; exact ⟨_, rfl⟩
      · rw [State.transportRead_eq] at h
        split at h
        · rw [andThen_ok] at h
          split at h
          · cases h
          · cases h; exact ⟨_, rfl⟩
        · rw [andThen_error] at h; cases h; exact ⟨_, rfl⟩
  · rw [andThen_error] at h; cases h; exact ⟨_, rfl⟩

/-- Taking a fatal error leaves the fatal state (R243, R244). -/
theorem State.raise_fatal {s : State} {e : OpError} {f : FatalError} (h : e.fatal = some f) :
    s.raise e = (s.enterFatal f).reply (.error e) := by
  cases e <;> cases h <;> rfl

/-- The two ends of an operation whose last act is a probe round. -/
theorem finish_probe (s : State) (x : Byte) (k : Unit → State → State) :
    (∃ t, s.OnlyCalls t ∧ s.probe x = (.ok (), t) ∧ finish (s.probe x) k = k () t) ∨
    (∃ e f t, e.fatal = some f ∧ s.OnlyCalls t ∧ s.probe x = (.error e, t) ∧
      finish (s.probe x) k = t.raise e) := by
  have h1 := (s.probe_calls x).1
  have h2 := @State.probe_error s x
  generalize s.probe x = a at h1 h2
  obtain ⟨r, t⟩ := a
  cases r with
  | ok v => exact .inl ⟨t, h1, rfl, rfl⟩
  | error e =>
    obtain ⟨f, hf⟩ := h2 rfl
    exact .inr ⟨e, f, t, hf, h1, rfl, rfl⟩

/-- A handshake is its two rounds, one after the other, the second only if the first passed (R179). -/
theorem syncHandshake_eq (s : State) :
    syncHandshake s = .next (finish (andThen (s.beginHandshake.probe Config.syncByte1)
      fun _ t => (t.setRound .second).probe Config.syncByte2) fun _ t => t.establishSync.reply .done) := by
  have h : execSyncProbe1 s.beginHandshake =
      .next (finish (s.beginHandshake.probe Config.syncByte1) fun _ t => t.setRound .second) := by
    rw [execSyncProbe1, whenRound]
    exact if_pos rfl
  rw [syncHandshake, h, secondRound]
  rcases finish_probe s.beginHandshake Config.syncByte1 (fun _ t => t.setRound .second) with
    ⟨t, _, hp, _⟩ | ⟨e, f, t, hf, _, hp, _⟩
  · have hr : (t.setRound .second).handshake = some .second := rfl
    simp only [hp, finish_ok, andThen_ok, if_pos hr, execSyncProbe2, whenRound]
  · have hr : ((t.enterFatal f).reply (.error e)).handshake ≠ some .second := nofun
    simp only [hp, andThen_error, finish_error, State.raise_fatal hf, if_neg hr]

/-- The two ends of a handshake (R179). -/
theorem syncHandshake_cases (s : State) :
    (∃ t, s.clearBuffers.OnlyCalls t ∧ syncHandshake s = .next (t.establishSync.reply .done)) ∨
    (∃ e f t, e.fatal = some f ∧ s.clearBuffers.OnlyCalls t ∧ syncHandshake s = .next (t.raise e)) := by
  rw [syncHandshake_eq]
  rcases hp : s.beginHandshake.probe Config.syncByte1 with ⟨r, t⟩
  have h1 := (s.beginHandshake.probe_calls Config.syncByte1).1
  rw [hp] at h1
  obtain ⟨a, d, c, rfl⟩ := h1
  cases r with
  | error e =>
    obtain ⟨f, hf⟩ := State.probe_error (e := e) (congrArg Prod.fst hp)
    refine .inr ⟨e, f, { s.clearBuffers with answers := a, draws := d, calls := c }, hf, ⟨a, d, c, rfl⟩, ?_⟩
    rw [andThen_error, finish_error, State.raise_fatal hf, State.raise_fatal hf]
    rfl
  | ok v =>
    rw [andThen_ok]
    rcases finish_probe (State.setRound _ .second) Config.syncByte2 (fun _ t => t.establishSync.reply .done) with
      ⟨u, ⟨a, d, c, rfl⟩, _, he⟩ | ⟨e, f, u, hf, ⟨a, d, c, rfl⟩, _, he⟩
    · refine .inl ⟨{ s.clearBuffers with answers := a, draws := d, calls := c }, ⟨a, d, c, rfl⟩, ?_⟩
      rw [he]
      rfl
    · refine .inr ⟨e, f, { s.clearBuffers with answers := a, draws := d, calls := c }, hf, ⟨a, d, c, rfl⟩, ?_⟩
      rw [he, State.raise_fatal hf, State.raise_fatal hf]
      rfl

/-- A probe round the transport serves ends by the search for the echo (R177). -/
theorem State.probe_served {s : State} {x : Byte} {zeros rest : List Answer} {reply : List Byte}
    (h : servedProbe s.params.syncPollLimit zeros reply s.answers rest) :
    s.probe x = (if echoFound x reply then .ok () else .error (.syncError x (some reply)),
      { s with answers := rest, calls := s.calls ++ probeCalls x (zeros.length + 1) reply.length }) := by
  obtain ⟨hz, hl, hne, w, p, r, ha, hw, hc, hp, hpc, hr, ht⟩ := h
  have h1 := State.afterCall_of_answers ha (.write [x])
  have hpz : p.count ≠ 0 := by rw [hpc]; simpa using hne
  have h2 : (s.afterCall (.write [x])).answers = zeros ++ p :: (r :: rest) := by rw [h1]
  have h3 := State.poll_scripted (s := s.afterCall (.write [x])) hz hp hpz hl h2
  have hparams : (s.afterCall (.write [x])).params = s.params := rfl
  rw [State.probe, State.transportWrite_eq, State.answer_of_answers ha, hw, hc]
  simp only [List.length_singleton, and_self, if_true, andThen_ok, hparams, h3, State.checkEcho, if_neg hpz]
  rw [State.transportRead_eq]
  rw [hpc] at ht ⊢
  simp only [State.answer, hr, ht, and_self, if_true, andThen_ok]
  split <;> simp [State.afterCall, probeCalls, *]

/-- The search finds the echo exactly when it is there (R177). -/
theorem echoFound_iff (x : Byte) (r : List Byte) :
    echoFound x r = true ↔ ∃ before after, r = before ++ [0xFA#8, x] ++ after := by
  constructor
  · intro h
    induction r with
    | nil => simp [echoFound] at h
    | cons a r ih =>
      cases r with
      | nil => simp [echoFound] at h
      | cons b r =>
        simp only [echoFound, Bool.or_eq_true, Bool.and_eq_true, beq_iff_eq] at h
        rcases h with ⟨rfl, rfl⟩ | h
        · exact ⟨[], r, rfl⟩
        · obtain ⟨c, d, he⟩ := ih h
          exact ⟨a :: c, d, by rw [he]; rfl⟩
  · rintro ⟨b, a, rfl⟩
    induction b with
    | nil => simp [echoFound, Config.badCmd]
    | cons c b ih =>
      rcases b with _ | ⟨d, b⟩
      · simp [echoFound, Config.badCmd]
      · simp only [List.cons_append, echoFound, Bool.or_eq_true]
        right
        simpa using ih

/-! ## The wire stream -/

theorem wireStream_append (a b : List TransportCall) : wireStream (a ++ b) = wireStream a ++ wireStream b := by
  induction a with
  | nil => rfl
  | cons c a ih => cases c <;> simp [wireStream, ih]

/-- A flush that succeeds empties both buffers and moves the pending bytes to the wire stream (R52). -/
theorem State.flush_outbound {s t : State} {resp : List Byte} (h : s.flush = (.ok resp, t)) :
    t.txbuf = [] ∧ t.rxexp = [] ∧ t.outbound = s.outbound := by
  rcases State.flush_cases h with ⟨hb, _, rfl⟩ | ⟨_, h1, _⟩ | ⟨_, _, _, rfl⟩ | ⟨_, _, h1, _⟩ | ⟨_, _, _, _, _, rfl⟩
  · exact ⟨hb, rfl, rfl⟩
  · cases h1
  · exact ⟨rfl, rfl, by simp [State.outbound, State.afterCall, State.clearBuffers, wireStream_append, wireStream]⟩
  · cases h1
  · exact ⟨rfl, rfl, by simp [State.outbound, State.afterCall, State.clearBuffers, wireStream_append, wireStream]⟩

/-! ## Bits -/

theorem setBit_unsetBit (r : Byte) (i : Nat) : setBit (unsetBit r i) i = setBit r i := by
  apply BitVec.eq_of_getLsbD_eq
  intro j hj
  rw [getLsbD_setBit _ _ _ hj, getLsbD_unsetBit _ _ _ hj, getLsbD_setBit _ _ _ hj]
  by_cases h : j = i <;> simp [h]

theorem unsetBit_unsetBit (r : Byte) (i : Nat) : unsetBit (unsetBit r i) i = unsetBit r i := by
  apply BitVec.eq_of_getLsbD_eq
  intro j hj
  rw [getLsbD_unsetBit _ _ _ hj, getLsbD_unsetBit _ _ _ hj]
  by_cases h : j = i <;> simp [h]

/-- `SendCore` once per byte (R198). -/
theorem State.sendAll_eq (s : State) (bytes : List Byte) :
    s.sendAll bytes = { s with
      low := if bytes = [] then s.low else
        { s.low with direction := unsetBit s.low.direction s.params.sdaOutBit }
      txbuf := s.txbuf ++ bytes.flatMap (ackedSend s.low s.params.sdaOutBit)
      rxexp := s.rxexp ++ bytes.flatMap (fun _ => [0, 0, 0, 1]) } := by
  induction bytes generalizing s with
  | nil => simp [State.sendAll]
  | cons b bs ih =>
    rw [State.sendAll, ih, State.sendCore_eq]
    have hb : (fun x : Byte => ackedSend { s.low with direction := unsetBit s.low.direction s.params.sdaOutBit }
        s.params.sdaOutBit x) = ackedSend s.low s.params.sdaOutBit := by
      funext x; simp [ackedSend, setBit_unsetBit, unsetBit_unsetBit]
    simp only [unsetBit_setBit]
    simp [List.append_assoc, hb, unsetBit_unsetBit, ackedSend]

end Sys2Proof.Machine
end

