-- ==== Sys2Proof/Laws/PerInstr.lean ====
section
/-! SUPPORT. One lemma per wire command: what the decoder reads from the encoder's bytes (R70 to R81). -/

namespace Sys2Proof.Laws

/-- Decoding the bytes of a well-formed command gives it back, and leaves what follows it. -/
def RoundTrip.Statement (i : Instr) : Prop :=
  i.wellFormed = true → ∀ rest : List Byte, decode (encode i ++ rest) = .ok (i, rest)

theorem RoundTrip.bytesOutMsbFall (p : List Byte) : RoundTrip.Statement (.bytesOutMsbFall p) := by
  intro h rest
  exact decodePayload_encode 0x11#8 .bytesOutMsbFall p rest h

theorem RoundTrip.bitsOutMsbFall (n : Nat) (data : Byte) : RoundTrip.Statement (.bitsOutMsbFall n data) := by
  intro h rest
  exact decodeBitCount_encode 0x13#8 (fun n => .bitsOutMsbFall n data) n rest h

theorem RoundTrip.bitsInMsbRise (n : Nat) : RoundTrip.Statement (.bitsInMsbRise n) := by
  intro h rest
  exact decodeBitCount_encode 0x22#8 .bitsInMsbRise n rest h

theorem RoundTrip.setBitsLow (v d : Byte) : RoundTrip.Statement (.setBitsLow v d) := fun _ _ => rfl

theorem RoundTrip.setBitsHigh (v d : Byte) : RoundTrip.Statement (.setBitsHigh v d) := fun _ _ => rfl

theorem RoundTrip.readBitsLow : RoundTrip.Statement .readBitsLow := fun _ _ => rfl

theorem RoundTrip.readBitsHigh : RoundTrip.Statement .readBitsHigh := fun _ _ => rfl

theorem RoundTrip.setClkDiv (d : BitVec 16) : RoundTrip.Statement (.setClkDiv d) := by
  intro _ rest
  have h : decode (encode (.setClkDiv d) ++ rest) =
      .ok (.setClkDiv (BitVec.ofNat 16 (u16 (lo8 d.toNat) (hi8 d.toNat))), rest) := rfl
  rw [h, ofNat_u16_divisor]

theorem RoundTrip.sendImmediate : RoundTrip.Statement .sendImmediate := fun _ _ => rfl

theorem RoundTrip.disClkDiv5 : RoundTrip.Statement .disClkDiv5 := fun _ _ => rfl

theorem RoundTrip.en3Phase : RoundTrip.Statement .en3Phase := fun _ _ => rfl

theorem RoundTrip.loopbackOff : RoundTrip.Statement .loopbackOff := fun _ _ => rfl

theorem RoundTrip.setDriveZero (l h : Byte) : RoundTrip.Statement (.setDriveZero l h) := fun _ _ => rfl

theorem RoundTrip.bytesOutMsbRise (p : List Byte) : RoundTrip.Statement (.bytesOutMsbRise p) := by
  intro h rest
  exact decodePayload_encode 0x10#8 .bytesOutMsbRise p rest h

theorem RoundTrip.bytesInOutMsbRiseInFallOut (p : List Byte) :
    RoundTrip.Statement (.bytesInOutMsbRiseInFallOut p) := by
  intro h rest
  exact decodePayload_encode 0x31#8 .bytesInOutMsbRiseInFallOut p rest h

theorem RoundTrip.bytesInOutMsbFallInRiseOut (p : List Byte) :
    RoundTrip.Statement (.bytesInOutMsbFallInRiseOut p) := by
  intro h rest
  exact decodePayload_encode 0x34#8 .bytesInOutMsbFallInRiseOut p rest h

theorem RoundTrip.syncProbe1 : RoundTrip.Statement .syncProbe1 := fun _ _ => rfl

theorem RoundTrip.syncProbe2 : RoundTrip.Statement .syncProbe2 := fun _ _ => rfl

end Sys2Proof.Laws
end

