-- ==== Sys2Proof/Tests/Slice0.lean ====
section
/-! SUPPORT. The model's own tests. An expected result is a vector of 95_test_vectors.md, named by its id, or is read from the
rule named; a `witness_` theorem shows that the hypotheses of the statement it is named after can be met. -/

namespace Sys2Proof.Tests

open Sys2Proof.Machine

/-! ## Helpers -/

/-- A block just constructed, after a handshake: the start state of 95_test_vectors.md. -/
def synced : State := { State.reset with sync := .synced }

/-- The transport says it wrote, or has waiting, `n` bytes. -/
def counts (n : Nat) : Answer := { ok := true, count := n, bytes := [] }

/-- The transport returns these bytes. -/
def gives (bs : List Byte) : Answer := { ok := true, count := 0, bytes := bs }

/-- The call fails. -/
def fails : Answer := { ok := false, count := 0, bytes := [] }

/-- Pins of bank `LOW`. -/
def pins (v d : Byte) : RegisterPair := { value := v, direction := d }

/-- The state an outcome leaves, if it is a next state. -/
def nextOf : Result → Option State
  | .next t => some t
  | .fault _ => none
  | .refused _ => none

/-- Why an outcome is refused, if it is. -/
def refusalOf : Result → Option Refusal
  | .next _ => none
  | .fault _ => none
  | .refused r => some r

/-- One step that serves `r`. -/
def serves (s : State) (r : Request) : Result := step { s with requests := [r] }

/-- Part of the state after one step that serves `r`. -/
def after {α : Type} (s : State) (r : Request) (f : State → α) : Option α := (nextOf (serves s r)).map f

/-- Both buffers. -/
def buffers (s : State) : List Byte × List Nat := (s.txbuf, s.rxexp)

/-- What the two ports have carried (R8). -/
def seen (s : State) : List TransportCall × List OpResult := (s.calls, s.results)

/-! ## Well-formedness: an ill-formed term for each check -/

theorem test_illformed_empty_payload :
    ([.bytesOutMsbFall [], .bytesOutMsbRise [], .bytesInOutMsbRiseInFallOut [], .bytesInOutMsbFallInRiseOut []] :
      List Instr).all (fun i => !i.wellFormed) = true := by decide

theorem test_illformed_long_payload :
    (Instr.bytesOutMsbFall (List.replicate 65537 0#8)).wellFormed = false := by
  simp only [Instr.wellFormed, payloadOk, List.length_replicate]
  decide

theorem test_illformed_bit_count :
    ([.bitsOutMsbFall 0 0#8, .bitsOutMsbFall 9 0#8, .bitsInMsbRise 0, .bitsInMsbRise 9] : List Instr).all
      (fun i => !i.wellFormed) = true := by decide

theorem test_capability_gates :
    ([.disClkDiv5, .en3Phase, .setDriveZero 0#8 0#8] : List Instr).all (fun i => !i.available
      { hasClockDivideBy5 := false, hasThreePhaseClocking := false, hasDriveOn0TristateOn1 := false }) = true := by decide

theorem test_params_limits :
    ({ Config.params with syncPollLimit := 0 } : Params).wf = false ∧ ({ Config.params with holdN := 0 } : Params).wf = false ∧
      Config.params.wf = true := by decide

/-! ## Decoding: words written out from the formats of 30_encoding.md -/

theorem test_decode_shift_words :
    decode [0x11, 0x00, 0x00, 0x55] = .ok (.bytesOutMsbFall [0x55], []) ∧
    decode [0x13, 0x07, 0xA5, 0x80] = .ok (.bitsOutMsbFall 8 0xA5, [0x80]) ∧
    decode [0x22, 0x00] = .ok (.bitsInMsbRise 1, []) ∧
    decode [0x10, 0x01, 0x00, 0x0A, 0x01] = .ok (.bytesOutMsbRise [0x0A, 0x01], []) ∧
    decode [0x31, 0x01, 0x00, 0xDE, 0xAD] = .ok (.bytesInOutMsbRiseInFallOut [0xDE, 0xAD], []) ∧
    decode [0x34, 0x01, 0x00, 0xDE, 0xAD] = .ok (.bytesInOutMsbFallInRiseOut [0xDE, 0xAD], []) := by decide

theorem test_decode_pin_words :
    decode [0x80, 0xFF, 0x00] = .ok (.setBitsLow 0xFF 0x00, []) ∧
    decode [0x82, 0x01, 0x0F] = .ok (.setBitsHigh 0x01 0x0F, []) ∧
    decode [0x81] = .ok (.readBitsLow, []) ∧
    decode [0x83] = .ok (.readBitsHigh, []) := by decide

theorem test_decode_control_words :
    decode [0x86, 0x1D, 0x00] = .ok (.setClkDiv 0x001D, []) ∧
    decode [0x86, 0x34, 0x12] = .ok (.setClkDiv 0x1234, []) ∧
    decode [0x87, 0x87] = .ok (.sendImmediate, [0x87]) ∧
    decode [0x8A] = .ok (.disClkDiv5, []) ∧
    decode [0x8C] = .ok (.en3Phase, []) ∧
    decode [0x85] = .ok (.loopbackOff, []) ∧
    decode [0x9E, 0x03, 0x00] = .ok (.setDriveZero 0x03 0x00, []) ∧
    decode [0xAA] = .ok (.syncProbe1, []) ∧
    decode [0xAB] = .ok (.syncProbe2, []) := by decide

theorem test_decode_rejects_by_name :
    decode [] = .error .emptyStream ∧
    decode [0x4B, 0x00, 0x00] = .error (.unknownOpcode 0x4B) ∧
    decode [0x11, 0x01, 0x00, 0x0A] = .error (.truncated 0x11) ∧
    decode [0x11, 0x00] = .error (.truncated 0x11) ∧
    decode [0x80, 0x00] = .error (.truncated 0x80) ∧
    decode [0x22, 0x08] = .error (.badBitCount 0x22 0x08) := by decide

/-- Vector B29. -/
theorem test_decode_stream_B29 :
    decodeStream [0x80, 0x00, 0x03, 0x11, 0x00, 0x00, 0xA0, 0x80, 0x00, 0x01, 0x22, 0x00] =
      some [.setBitsLow 0x00 0x03, .bytesOutMsbFall [0xA0], .setBitsLow 0x00 0x01, .bitsInMsbRise 1] := by decide

/-- Vector B9: payload bytes that look like opcodes are payload. -/
theorem test_decode_payload_B9 :
    decodeStream [0x11, 0x02, 0x00, 0x80, 0x87, 0xAA] = some [.bytesOutMsbFall [0x80, 0x87, 0xAA]] := by decide

/-- Vectors B4, B5 and B6: the length field, low byte first. -/
theorem test_length_field_B4_B5_B6 :
    lo8 (257 - 1) = 0x00 ∧ hi8 (257 - 1) = 0x01 ∧ lo8 (65536 - 1) = 0xFF ∧ hi8 (65536 - 1) = 0xFF ∧ lo8 (65535 - 1) = 0xFE ∧ hi8 (65535 - 1) = 0xFF := by decide

/-! ## The wire commands as requests -/

/-- Vectors B1, B23, B24, B25. -/
theorem test_byte_commands :
    after synced (.wire (.bytesOutMsbFall [0x0A, 0x01])) buffers = some ([0x11, 0x01, 0x00, 0x0A, 0x01], [0]) ∧
    after synced (.wire (.bytesOutMsbRise [0x0A, 0x01])) buffers = some ([0x10, 0x01, 0x00, 0x0A, 0x01], [0]) ∧
    after synced (.wire (.bytesInOutMsbRiseInFallOut [0xDE, 0xAD])) buffers =
      some ([0x31, 0x01, 0x00, 0xDE, 0xAD], [2]) ∧
    after synced (.wire (.bytesInOutMsbFallInRiseOut [0xDE, 0xAD])) buffers =
      some ([0x34, 0x01, 0x00, 0xDE, 0xAD], [2]) := by decide

/-- Vectors B10, B12, and C2. -/
theorem test_bit_commands :
    after synced (.wire (.bitsOutMsbFall 1 0xFF)) buffers = some ([0x13, 0x00, 0xFF], [0]) ∧
    after synced (.wire (.bitsInMsbRise 8)) buffers = some ([0x22, 0x07], [1]) := by decide

/-- Vectors B7, B13, B14, B27, H3: an `EncodingError` and nothing appended. -/
theorem test_encoding_errors :
    after synced (.wire (.bytesOutMsbFall [])) (fun t => (buffers t, t.results)) =
      some (([], []), [.error (.encodingError 0)]) ∧
    after synced (.wire (.bitsInMsbRise 9)) (fun t => (buffers t, t.results)) =
      some (([], []), [.error (.encodingError 9)]) ∧
    after synced (.wire (.bitsOutMsbFall 0 0x00)) State.results = some [.error (.encodingError 0)] := by decide

/-- Vectors B15, B17, B18, B19. -/
theorem test_pin_commands :
    after synced (.wire (.setBitsLow 0x03 0x03)) buffers = some ([0x80, 0x03, 0x03], [0]) ∧
    after synced (.wire (.setBitsHigh 0x01 0x0F)) buffers = some ([0x82, 0x01, 0x0F], [0]) ∧
    after synced (.wire .readBitsLow) buffers = some ([0x81], [1]) ∧
    after synced (.wire .readBitsHigh) buffers = some ([0x83], [1]) ∧
    after synced (.wire .sendImmediate) buffers = some ([0x87], [0]) := by decide

/-- Vectors B20, B21, and the shadows of B28. -/
theorem test_clock_and_loopback_commands :
    after synced (.wire (.setClkDiv 0x1234)) (fun t => (buffers t, t.cfg.clkdiv)) =
      some (([0x86, 0x34, 0x12], [0]), some 0x1234) ∧
    after synced (.wire .loopbackOff) (fun t => (buffers t, t.cfg.loopback)) = some (([0x85], [0]), some false) := by decide

/-- Vectors B21, B22, and the shadows of B28. -/
theorem test_gated_commands :
    after synced (.wire .disClkDiv5) (fun t => (buffers t, t.cfg.div5)) = some (([0x8A], [0]), some false) ∧
    after synced (.wire .en3Phase) (fun t => (buffers t, t.cfg.phase3)) = some (([0x8C], [0]), some true) ∧
    after synced (.wire (.setDriveZero 0x03 0x00)) (fun t => (buffers t, t.cfg.drive0)) =
      some (([0x9E, 0x03, 0x00], [0]), some (0x03, 0x00)) := by decide

/-- R177, R179: each round of a handshake; the first that passes does not end it. -/
theorem test_probe_rounds :
    after { State.reset with handshake := some .first, answers := [counts 1, counts 2, gives [0xFA, 0xAA]] }
      (.wire .syncProbe1) (fun t => (seen t, t.sync, t.handshake)) =
      some (([.write [0xAA], .bytesAvailable, .read 2], []), .unsynced, some .second) ∧
    after { State.reset with handshake := some .second, answers := [counts 1, counts 2, gives [0xFA, 0xAA]] }
      (.wire .syncProbe2) (fun t => (seen t, t.sync, t.handshake)) =
      some (([.write [0xAB], .bytesAvailable, .read 2], [.error (.syncError 0xAB (some [0xFA, 0xAA]))]), .unsynced, none) := by
  decide

/-- R79, R87, R246, R260: outside the handshake no probe byte is sent, in service or from reset. -/
theorem test_probe_outside_handshake :
    refusalOf (serves synced (.wire .syncProbe1)) = some .outsideHandshake ∧
    refusalOf (serves { synced with handshake := some .first } (.wire .syncProbe2)) = some .outsideHandshake ∧
    refusalOf (serves State.reset (.wire .syncProbe1)) = some .unsynced ∧
    refusalOf (serves State.reset (.wire .syncProbe2)) = some .unsynced := by decide

/-- R152: with the capability absent the request cannot be formed. -/
theorem test_capability_refusal :
    refusalOf (serves { synced with params := { Config.params with cap :=
      { hasClockDivideBy5 := false, hasThreePhaseClocking := true, hasDriveOn0TristateOn1 := true } } }
        (.wire .disClkDiv5)) = some .capabilityAbsent := by decide

/-- Each row of the opcode table decodes at its opcode, and runs as the first command after reset. -/
theorem test_table_words :
    ([0x11, 0x13, 0x22, 0x80, 0x82, 0x81, 0x83, 0x86, 0x87, 0x8A, 0x8C, 0x85, 0x9E, 0x10, 0x31, 0x34, 0xAA, 0xAB] :
      List Nat).all (fun w => (decodeTableWord 8 w).isSome && (nextOf (step (State.reset.withFetchWord 8 w))).isSome) =
      true := by decide

/-! ## Pin register operations -/

/-- Vectors A1, A5, A7, A8. -/
theorem test_bit_operations :
    after synced (.setBit (.value .low) 0) (fun t => (t.low.value, t.results)) = some (0x01, [.byte 0x01]) ∧
    after { synced with high := pins 0xFF 0x00 } (.unsetBit (.value .high) 0) (fun t => t.high.value) = some 0xFE ∧
    after { synced with low := pins 0x00 0x10 } (.toggleBit (.direction .low) 4) (fun t => t.low.direction) = some 0x00 ∧
    after { synced with high := pins 0x00 0x14 } (.isSet (.direction .high) 2) State.results = some [.flag true] ∧
    after { synced with high := pins 0x00 0x14 } (.isSet (.direction .high) 3) State.results = some [.flag false] := by
  decide

/-- Vectors A4, A9, A20, H1, H2, in a block that is not synchronised (R246). -/
theorem test_range_errors :
    after { State.reset with low := pins 0x3C 0x00 } (.setBit (.value .low) 8) (fun t => (t.low, t.results)) =
      some (pins 0x3C 0x00, [.error (.rangeError 8)]) ∧
    after { State.reset with low := pins 0xFF 0x00 } (.unsetBit (.value .low) 255) State.results =
      some [.error (.rangeError 255)] ∧
    after { State.reset with low := pins 0x77 0x00 } (.mask (.value .low) (List.replicate 9 none))
      (fun t => (t.low, t.results)) = some (pins 0x77 0x00, [.error (.rangeError 9)]) := by decide

/-- Vectors A10 to A13. -/
theorem test_mask_of_eight :
    maskByte [none, none, some true, some false, some true, none, none, none] 0x00 = 0x28 ∧
    maskByte [none, none, some true, some false, some true, none, none, none] 0xFF = 0xEF ∧
    maskByte (List.replicate 8 none) 0x5A = 0x5A ∧
    maskByte [none, none, none, some false, some false, some false, some true, some true] 0xA5 = 0xA3 := by decide

/-- Vectors A14 to A19. -/
theorem test_mask_of_other_lengths :
    maskByte [some true] 0x00 = 0x01 ∧ maskByte [some false, none] 0xFF = 0xFD ∧
    maskByte [some true, some false, some true] 0x00 = 0x05 ∧ maskByte [] 0x5A = 0x5A ∧
    maskByte [some true, none, none, none, none, none, none, some false] 0x0F = 0x8E := by decide

/-- Vectors A21, A22. -/
theorem test_byte_conversion_and_pin_write :
    after synced (.fromByte (.direction .high) 0xC3) (fun t => (t.high, t.results)) =
      some (pins 0x00 0xC3, [.byte 0xC3]) ∧
    after { synced with high := pins 0x01 0x0F } (.pinWrite .high) (fun t => (buffers t, t.calls)) =
      some (([0x82, 0x01, 0x0F], [0]), []) := by decide

/-- Vectors A23, A24. -/
theorem test_pin_read :
    after { synced with answers := [counts 2, gives [0x7F]] } (.pinRead .low) (fun t => (seen t, t.low)) =
      some (([.write [0x81, 0x87], .read 1], [.byte 0x7F]), pins 0x00 0x00) ∧
    after { synced with txbuf := [0x80, 0x08, 0x0B], rxexp := [0], answers := [counts 5, gives [0x00]] } (.pinRead .high)
      seen = some ([.write [0x80, 0x08, 0x0B, 0x83, 0x87], .read 1], [.byte 0x00]) := by decide

/-! ## The buffer -/

/-- The start state of vector C3. -/
def c3 : State := { synced with txbuf := [0x80, 0x00, 0x01, 0x22, 0x00], rxexp := [0, 1] }

/-- Vectors C1, C3, C4. -/
theorem test_flush :
    after synced .flush seen = some ([], [.bytes []]) ∧
    after { c3 with answers := [counts 5, gives [0x00]] } .flush (fun t => (seen t, buffers t)) =
      some (([.write [0x80, 0x00, 0x01, 0x22, 0x00], .read 1], [.bytes [0x00]]), ([], [])) ∧
    after { synced with txbuf := [0x80, 0x03, 0x03], rxexp := [0], answers := [counts 3] } .flush seen =
      some ([.write [0x80, 0x03, 0x03]], [.bytes []]) := by decide

/-- Vector C5. -/
theorem test_slices :
    slice [1, 1, 0] [0x12, 0x34] 0 = [0x12] ∧ slice [1, 1, 0] [0x12, 0x34] 1 = [0x34] ∧
    slice [1, 1, 0] [0x12, 0x34] 2 = [] := by decide

/-- The start state of vector C6, with a shadow and a pin register to see what is kept. -/
def c6 : State := { c3 with low := pins 0x08 0x0B, fsm := .started, cfg := { Shadow.unknown with clkdiv := some 1 }
                            answers := [counts 4] }

/-- Vector C6: a short write. -/
theorem test_short_write :
    after c6 .flush (fun t => (t.calls, t.sync, t.fault)) =
      some ([.write [0x80, 0x00, 0x01, 0x22, 0x00]], .unsynced, some .transportError) ∧
    after c6 .flush buffers = some ([], []) ∧ after c6 .flush State.cfg = some Shadow.unknown ∧
    after c6 .flush (fun t => (t.fsm, t.low)) = some (.idle, pins 0x08 0x0B) := by decide

/-- Vectors C7, H6: a short read. -/
theorem test_short_read :
    after { c3 with answers := [counts 5, gives []] } .flush (fun t => (t.results, t.sync, t.fault)) =
      some ([.error (.transportError .read)], .unsynced, some .transportError) := by decide

/-- Vector C8. -/
theorem test_unsynced_is_refused :
    refusalOf (serves State.reset .flush) = some .unsynced ∧ refusalOf (serves State.reset .i2cStart) = some .unsynced ∧
    refusalOf (serves State.reset (.wire .sendImmediate)) = some .unsynced := by decide

/-- R160, R86: bytes that are no whole commands are no EncodedCommand; bytes that are, are appended as one fragment. -/
theorem test_direct_enqueue :
    after synced (.enqueue [0x86, 0x34, 0x12, 0x81] 1) (fun t => (buffers t, t.cfg.clkdiv)) =
      some (([0x86, 0x34, 0x12, 0x81], [1]), some 0x1234) ∧
    refusalOf (serves synced (.enqueue [0x80, 0x00] 0)) = some .malformedCommand ∧
    refusalOf (serves synced (.enqueue [0xAA] 0)) = some .malformedCommand ∧
    refusalOf (serves synced (.enqueue [] 0)) = some .malformedCommand := by decide

/-- Vectors B12, B24: the encoder function alone. -/
theorem test_encoder_call :
    after synced (.encodeOnly (.bitsInMsbRise 8)) (fun t => (t.results, buffers t)) =
      some ([.encoded [0x22, 0x07] 1], ([], [])) ∧
    after synced (.encodeOnly (.bytesInOutMsbRiseInFallOut [0xDE, 0xAD])) State.results =
      some [.encoded [0x31, 0x01, 0x00, 0xDE, 0xAD] 2] := by decide

/-! ## The handshake, with a limit of 3 polls -/

/-- The answers of an engine that echoes both probes. -/
def echoes : List Answer := [counts 1, counts 2, gives [0xFA, 0xAA], counts 1, counts 2, gives [0xFA, 0xAB]]

/-- Vectors D1, D9, H8. -/
theorem test_handshake_D1_D9 :
    after { State.reset with answers := echoes } .syncHandshake (fun t => (seen t, t.sync, t.fault)) =
      some (([.write [0xAA], .bytesAvailable, .read 2, .write [0xAB], .bytesAvailable, .read 2], [.done]), .synced, none) ∧
    after { State.reset with fault := some .transportError, low := pins 0x08 0x0B, answers := echoes } .syncHandshake
      (fun t => (t.sync, t.fault, t.low)) = some (.synced, none, pins 0x08 0x0B) := by decide

/-- Vectors D2, H5. -/
theorem test_handshake_D2 :
    after { State.reset with answers := [counts 1, counts 0, counts 0, counts 0] } .syncHandshake
      (fun t => (seen t, t.sync, t.fault)) =
      some (([.write [0xAA], .bytesAvailable, .bytesAvailable, .bytesAvailable], [.error (.syncError 0xAA none)]),
        .unsynced, some .syncError) := by decide

/-- Vectors D3, D8. -/
theorem test_handshake_D3_D8 :
    after { State.reset with answers := [counts 1, counts 0, counts 0, counts 4, gives [0x00, 0x32, 0xFA, 0xAA], counts 1,
      counts 2, gives [0xFA, 0xAB]] } .syncHandshake State.results = some [.done] ∧
    after { State.reset with answers := [counts 1, counts 2, gives [0xFA, 0xAA], counts 1, counts 2, gives [0xFA, 0xAA]] }
      .syncHandshake State.results = some [.error (.syncError 0xAB (some [0xFA, 0xAA]))] := by decide

/-- Vectors D4 to D7. -/
theorem test_echo_D4_D7 :
    echoFound 0xAA [0xFA] = false ∧ echoFound 0xAA [0xFA, 0xAB] = false ∧ echoFound 0xAA [0xAA, 0xFA] = false ∧
    echoFound 0xAB [0xFA, 0xAA, 0xFA, 0xAB] = true := by decide

/-- Vector D10. -/
theorem test_handshake_D10 :
    after { State.reset with answers := [counts 0] } .syncHandshake (fun t => (seen t, t.fault)) =
      some (([.write [0xAA]], [.error (.transportError .write)]), some .transportError) := by decide

/-! ## I2C -/

/-- The 36 bytes of `Start` (section 3 of the vectors). -/
def s36 : List Byte :=
  (List.replicate 4 [0x80, 0x03, 0x03]).flatten ++ (List.replicate 4 [0x80, 0x01, 0x03]).flatten ++
    (List.replicate 4 [0x80, 0x00, 0x03]).flatten

/-- The 36 bytes of `Stop`. -/
def p36 : List Byte :=
  (List.replicate 4 [0x80, 0x00, 0x03]).flatten ++ (List.replicate 4 [0x80, 0x01, 0x03]).flatten ++
    (List.replicate 4 [0x80, 0x03, 0x03]).flatten

/-- Vector E1. -/
theorem test_start_E1 :
    after synced .i2cStart (fun t => (t.txbuf, t.rxexp, t.low, t.fsm)) =
      some (s36, List.replicate 12 0, pins 0x00 0x03, .started) := by decide

/-- Vector E2: the other bits are kept. -/
theorem test_start_E2 :
    after { synced with low := pins 0xF0 0xF0 } .i2cStart (fun t => (t.txbuf.drop 33, t.low)) =
      some ([0x80, 0xF0, 0xF3], pins 0xF0 0xF3) := by decide

/-- The state after vector E1. -/
def started : State := { synced with txbuf := s36, rxexp := List.replicate 12 0, low := pins 0x00 0x03, fsm := .started }

/-- Vector E3. -/
theorem test_address_E3 :
    after { started with answers := [counts 48, gives [0x00]] } (.i2cSendDeviceAddrAndCheckAck 0x50 false)
      (fun t => (seen t, t.low, t.fsm)) =
      some (([.write (s36 ++ [0x80, 0x00, 0x03, 0x11, 0x00, 0x00, 0xA0, 0x80, 0x00, 0x01, 0x22, 0x00]), .read 1],
        [.flag true]), pins 0x00 0x01, .addressPhase) := by decide

/-- Vectors E4, E5, E6, E14. -/
theorem test_address_E4_E5_E6_E14 :
    after { started with answers := [counts 48, gives [0x01]] } (.i2cSendDeviceAddrAndCheckAck 0x50 false) State.results =
      some [.flag false] ∧
    addressByte 0x50 true = 0xA1 ∧ addressByte 0x7F true = 0xFF ∧ addressByte 0x00 false = 0x00 ∧
    ackOf 0xFE = true ∧ ackOf 0xFF = false ∧ ackOf 0x80 = true ∧ ackOf 0x81 = false := by decide

/-- Vector E16: the pin registers keep what the operation wrote. -/
theorem test_address_E16 :
    after { started with answers := [counts 48, fails] } (.i2cSendDeviceAddrAndCheckAck 0x50 false)
      (fun t => (t.results, t.fsm, t.sync, t.low)) =
      some ([.error (.transportError .read)], .idle, .unsynced, pins 0x00 0x01) := by decide

/-- The start state of vectors E7 to E13. -/
def addressed : State := { synced with low := pins 0x00 0x01, fsm := .addressPhase }

/-- Vector E7. -/
theorem test_send_byte_E7 :
    after { addressed with answers := [counts 12, gives [0x01]] } (.i2cSendByteAndCheckAck 0x3C) (fun t => (seen t, t.fsm)) =
      some (([.write [0x80, 0x00, 0x03, 0x11, 0x00, 0x00, 0x3C, 0x80, 0x00, 0x01, 0x22, 0x00], .read 1], [.flag false]),
        .dataPhase) := by decide

/-- Vectors E8, E13. -/
theorem test_send_bytes_E8_E13 :
    after { addressed with answers := [counts 24, gives [0x00, 0x01]] } (.i2cSendBytes [0x01, 0x02]) seen =
      some ([.write [0x80, 0x00, 0x03, 0x11, 0x00, 0x00, 0x01, 0x80, 0x00, 0x01, 0x22, 0x00, 0x80, 0x00, 0x03, 0x11, 0x00,
        0x00, 0x02, 0x80, 0x00, 0x01, 0x22, 0x00], .read 2], [.flags [true, false]]) ∧
    after addressed (.i2cSendBytes []) (fun t => (seen t, t.fsm)) = some (([], [.flags []]), .dataPhase) := by decide

/-- Vectors E9, E10. -/
theorem test_receive_E9_E10 :
    after { addressed with answers := [counts 12, gives [0x5A]] } (.i2cReceiveByte false) seen =
      some ([.write [0x22, 0x07, 0x80, 0x00, 0x03, 0x13, 0x00, 0xFF, 0x80, 0x00, 0x01, 0x87], .read 1], [.byte 0x5A]) ∧
    after { addressed with answers := [counts 12, gives [0xC3]] } (.i2cReceiveByte true) seen =
      some ([.write [0x22, 0x07, 0x80, 0x00, 0x03, 0x13, 0x00, 0x00, 0x80, 0x00, 0x01, 0x87], .read 1], [.byte 0xC3]) := by
  decide

/-- Vector E11. -/
theorem test_stop_E11 :
    after { addressed with fsm := .dataPhase, answers := [counts 36] } .i2cStop (fun t => (seen t, t.low, t.fsm)) =
      some (([.write p36], [.done]), pins 0x03 0x03, .idle) := by decide

/-- Vector E15: ill-ordered use has its bytes all the same. -/
theorem test_send_byte_E15 :
    after { synced with answers := [counts 12, gives [0x01]] } (.i2cSendByteAndCheckAck 0x00) (fun t => (seen t, t.low)) =
      some (([.write [0x80, 0x00, 0x02, 0x11, 0x00, 0x00, 0x00, 0x80, 0x00, 0x00, 0x22, 0x00], .read 1], [.flag false]),
        pins 0x00 0x00) := by decide

/-! ## SPI -/

/-- Vectors F1 to F4. -/
theorem test_spi_configure_F1_F4 :
    after synced (.spiConfigure ⟨.mode0, 3, .activeLow⟩) (fun t => (buffers t, t.low, t.calls)) =
      some (([0x80, 0x08, 0x0B], [0]), pins 0x08 0x0B, []) ∧
    after synced (.spiConfigure ⟨.mode2, 3, .activeLow⟩) (fun t => t.low) = some (pins 0x09 0x0B) ∧
    after synced (.spiConfigure ⟨.mode0, 4, .activeHigh⟩) (fun t => t.low) = some (pins 0x00 0x13) ∧
    after synced (.spiConfigure ⟨.mode2, 4, .activeHigh⟩) (fun t => t.low) = some (pins 0x01 0x13) := by decide

/-- Vectors F5, F6. -/
theorem test_spi_configure_F5_F6 :
    after synced (.spiConfigure ⟨.mode0, 5, .defaultLow⟩) (fun t => t.low) = some (pins 0x00 0x23) ∧
    after synced (.spiConfigure ⟨.mode0, 5, .defaultHigh⟩) (fun t => t.low) = some (pins 0x20 0x23) ∧
    after synced (.spiConfigure ⟨.mode0, 8, .activeLow⟩) (fun t => (t.results, t.spiCfg, buffers t)) =
      some ([.error (.rangeError 8)], none, ([], [])) := by decide

/-- R216, vectors F3 and F1, with a record there already: another one, and the same again as after a fatal error (R264). -/
theorem test_spi_configure_again :
    after { synced with spiCfg := some ⟨.mode0, 3, .activeLow⟩ } (.spiConfigure ⟨.mode0, 4, .activeHigh⟩)
      (fun t => (buffers t, t.low, t.spiCfg)) =
      some (([0x80, 0x00, 0x13], [0]), pins 0x00 0x13, some ⟨.mode0, 4, .activeHigh⟩) ∧
    after { synced with spiCfg := some ⟨.mode0, 3, .activeLow⟩ } (.spiConfigure ⟨.mode0, 3, .activeLow⟩)
      (fun t => (buffers t, t.low, t.spiCfg)) =
      some (([0x80, 0x08, 0x0B], [0]), pins 0x08 0x0B, some ⟨.mode0, 3, .activeLow⟩) := by decide

/-- After vectors F1 and F2, flushed, and after F4 and F5, not flushed. -/
def f1 : State := { synced with low := pins 0x08 0x0B, spiCfg := some ⟨.mode0, 3, .activeLow⟩ }
def f2 : State := { synced with low := pins 0x09 0x0B, spiCfg := some ⟨.mode2, 3, .activeLow⟩ }
def f4 : State := { synced with low := pins 0x01 0x13, spiCfg := some ⟨.mode2, 4, .activeHigh⟩
                                txbuf := [0x80, 0x01, 0x13], rxexp := [0] }
def f5 : State := { synced with low := pins 0x00 0x23, spiCfg := some ⟨.mode0, 5, .defaultLow⟩
                                txbuf := [0x80, 0x00, 0x23], rxexp := [0] }

/-- Vectors F7, F11. -/
theorem test_spi_write_F7_F11 :
    after { f1 with answers := [counts 10] } (.spiWrite [0x9F]) (fun t => (seen t, t.low)) =
      some (([.write [0x80, 0x00, 0x0B, 0x11, 0x00, 0x00, 0x9F, 0x80, 0x08, 0x0B]], [.done]), pins 0x08 0x0B) ∧
    after { f2 with answers := [counts 10] } (.spiWrite [0x9F]) seen =
      some ([.write [0x80, 0x01, 0x0B, 0x10, 0x00, 0x00, 0x9F, 0x80, 0x09, 0x0B]], [.done]) := by decide

/-- Vectors F8, F10. -/
theorem test_spi_read_write_F8_F10 :
    after { f1 with answers := [counts 11, gives [0x12, 0x34]] } (.spiReadWrite [0xDE, 0xAD]) seen =
      some ([.write [0x80, 0x00, 0x0B, 0x31, 0x01, 0x00, 0xDE, 0xAD, 0x80, 0x08, 0x0B], .read 2],
        [.bytes [0x12, 0x34]]) ∧
    after { f2 with answers := [counts 11, gives [0x12, 0x34]] } (.spiReadWrite [0xDE, 0xAD]) State.calls =
      some [.write [0x80, 0x01, 0x0B, 0x34, 0x01, 0x00, 0xDE, 0xAD, 0x80, 0x09, 0x0B], .read 2] := by decide

/-- Vectors F12, F13. -/
theorem test_spi_read_write_F12_F13 :
    after { f4 with answers := [counts 13, gives [0xFF]] } (.spiReadWrite [0x00]) (fun t => (seen t, t.low)) =
      some (([.write [0x80, 0x01, 0x13, 0x80, 0x11, 0x13, 0x34, 0x00, 0x00, 0x00, 0x80, 0x01, 0x13], .read 1],
        [.bytes [0xFF]]), pins 0x01 0x13) ∧
    after { f5 with answers := [counts 7, gives [0xAB]] } (.spiReadWrite [0x01]) seen =
      some ([.write [0x80, 0x00, 0x23, 0x31, 0x00, 0x00, 0x01], .read 1], [.bytes [0xAB]]) := by decide

/-- Vectors F15, H4; and R222 without a configuration. -/
theorem test_spi_stops :
    after f1 (.spiWrite []) seen = some ([], [.error (.encodingError 0)]) ∧
    after f1 (.spiWrite []) (fun t => (t.low, t.txbuf)) = some (pins 0x08 0x0B, []) ∧
    refusalOf (serves synced (.spiWrite [0x00])) = some .spiNotConfigured := by decide

/-! ## The clock, the lock, bring-up -/

/-- Vectors G1 to G4. -/
theorem test_clock :
    clockHz 12000000 0x0000#16 = 6000000 ∧ clockHz 60000000 0x0000#16 = 30000000 ∧
    clockHz 60000000 0x0001#16 = 15000000 ∧ clockHz 12000000 0x001D#16 = 200000 ∧
    clockHz 12000000 0x003B#16 = 100000 := by
  simp only [clockHz, BitVec.toNat_ofNat]
  norm_num

/-- R60: while the lock is held a request waits; the model stops there by name. -/
theorem test_lock_held : (serves { synced with lock := .held } .flush matches .fault .lockHeld) = true := by decide

/-- R262, R239: a bring-up call that fails. -/
theorem test_bring_up_failure :
    after { synced with answers := [fails] } (.bringUp (.setBitMode 0x00 0x02)) (fun t => (t.results, t.fault)) =
      some ([.error (.transportError (.bringUp (.setBitMode 0x00 0x02)))], some .transportError) := by decide

/-! ## Witnesses: concrete values that meet the hypotheses of each statement, at the ends of the ranges of its clauses -/

/-- Payloads of the least and the greatest length, and of the first lengths out of range. -/
theorem payload_lengths :
    ([0x55] : List Byte).length = 1 ∧ (List.replicate 65536 (0x55 : Byte)).length = 65536 ∧ ([] : List Byte).length = 0 ∧
      65536 < (List.replicate 65537 (0x55 : Byte)).length := by
  simp only [List.length_replicate, List.length_cons, List.length_nil]
  decide

theorem witness_DecodeInvertsEncode :
    (Instr.bytesOutMsbFall (List.replicate 65536 0x55)).wellFormed = true ∧ (Instr.bytesOutMsbRise [0x55]).wellFormed = true ∧
      (Instr.bitsInMsbRise 1).wellFormed = true ∧ (Instr.bitsOutMsbFall 8 0xFF).wellFormed = true ∧
      (Instr.setClkDiv 0xFFFF).wellFormed = true := by
  simp only [Instr.wellFormed, payloadOk, List.length_replicate]
  decide

theorem witness_DecodedCommandsReencode : decode [0x22, 0x07, 0x87] = .ok (.bitsInMsbRise 8, [0x87]) := by decide

theorem witness_StreamsOfWholeCommandsDecode :
    decodeStream [0x81, 0x22, 0x00] = some [.readBitsLow, .bitsInMsbRise 1] ∧ decodeStream [] = some [] ∧
      decodeStream [0x81, 0x22] = none := by decide

theorem witness_CommandLengthFollowsFromTheOpcode :
    decode [0x81, 0x87] = .ok (.readBitsLow, [0x87]) ∧ commandLength [0x4B] = none ∧ commandLength [0x11, 0x00] = none ∧
      commandLength [0x80, 0x00] = some 3 ∧ commandLength [0x11, 0x00, 0x00, 0x55] = some 4 ∧
      commandLength [0x22, 0x08] = some 2 := by decide

theorem witness_ByteLengthRule :
    (([] : List Byte).length = 0 ∨ 65536 < ([] : List Byte).length) ∧
      (1 ≤ ([0x55] : List Byte).length ∧ ([0x55] : List Byte).length ≤ 65536) ∧
      (1 ≤ (List.replicate 65536 (0x55 : Byte)).length ∧ (List.replicate 65536 (0x55 : Byte)).length ≤ 65536) ∧
      65536 < (List.replicate 65537 (0x55 : Byte)).length := by
  simp only [List.length_replicate]
  decide

theorem witness_BitLengthRule : (0 = 0 ∨ 8 < 0) ∧ (9 = 0 ∨ 8 < 9) ∧ (1 ≤ 1 ∧ 1 ≤ 8) ∧ (1 ≤ 8 ∧ 8 ≤ 8) := by decide

theorem witness_EncoderFunctionsAgreeWithTheFormats :
    Instr.syncProbe1.isProbe = true ∧
      ((Instr.bitsInMsbRise 8).isProbe = false ∧ (Instr.bitsInMsbRise 8).wellFormed = true) ∧
      ((Instr.bitsInMsbRise 9).isProbe = false ∧ (Instr.bitsInMsbRise 9).wellFormed = false) := by decide

/-- For every statement whose hypothesis on the state is that the block is in service. -/
theorem witness_synced : synced.sync = .synced := rfl

theorem witness_ByteCommandsAppendTheirBytes :
    synced.sync = .synced ∧ (1 ≤ ([0x55] : List Byte).length ∧ ([0x55] : List Byte).length ≤ 65536) ∧
      (List.replicate 65536 (0x55 : Byte)).length ≤ 65536 ∧ ([] : List Byte).length = 0 ∧
      65536 < (List.replicate 65537 (0x55 : Byte)).length := by
  simp only [List.length_replicate]
  decide

theorem witness_BitCommandsAppendTheirBytes :
    synced.sync = .synced ∧ (1 ≤ 1 ∧ 1 ≤ 8) ∧ (1 ≤ 8 ∧ 8 ≤ 8) ∧ (0 = 0 ∨ 8 < 0) ∧ (9 = 0 ∨ 8 < 9) := by decide

theorem witness_BankCommandsAppendTheirBytes : synced.sync = .synced := rfl

theorem witness_SendImmediateAppendsItsByte : synced.sync = .synced := rfl

theorem witness_ClockAndLoopbackWriteTheirShadows : synced.sync = .synced := rfl

/-- A block in service whose chip family has none of the three capabilities. -/
def bare : State :=
  { synced with params := { Config.params with cap :=
      { hasClockDivideBy5 := false, hasThreePhaseClocking := false, hasDriveOn0TristateOn1 := false } } }

theorem witness_GatedCommandsNeedTheirCapability :
    synced.sync = .synced ∧ synced.params.cap.hasClockDivideBy5 = true ∧ synced.params.cap.hasThreePhaseClocking = true ∧
      synced.params.cap.hasDriveOn0TristateOn1 = true ∧ bare.sync = .synced ∧ bare.params.cap.hasClockDivideBy5 = false ∧
      bare.params.cap.hasThreePhaseClocking = false ∧ bare.params.cap.hasDriveOn0TristateOn1 = false := by decide

/-- A probe round is served after two polls of zero, the most the limit of 3 leaves room for. -/
theorem served_probe (reply : List Byte) (rest : List Answer) (h : reply ≠ []) :
    servedProbe 3 [counts 0, counts 0] reply
      (counts 1 :: ([counts 0, counts 0] ++ counts reply.length :: gives reply :: rest)) rest := by
  refine ⟨by decide, by decide, h, counts 1, counts reply.length, gives reply, rfl, rfl, rfl, rfl, rfl, rfl, ?_⟩
  simp only [gives, counts, List.take_length]

/-- In each round; and outside: with no handshake running, and in the other round. -/
theorem witness_ProbeRoundCompletesOnItsEcho :
    (∃ (s : State) (zeros rest : List Answer), s.handshake = some .first ∧
      servedProbe s.params.syncPollLimit zeros ([] ++ [0xFA#8, 0xAA#8] ++ []) s.answers rest) ∧
    (∃ (s : State) (zeros rest : List Answer), s.handshake = some .second ∧
      servedProbe s.params.syncPollLimit zeros ([0x00] ++ [0xFA#8, 0xAB#8] ++ [0x32]) s.answers rest) ∧
    (synced.sync = .synced ∧ synced.handshake ≠ some .first ∧ synced.handshake ≠ some .second) ∧
    ({ synced with handshake := some .second } : State).handshake ≠ some .first ∧
    ({ synced with handshake := some .first } : State).handshake ≠ some .second :=
  ⟨⟨{ State.reset with handshake := some .first, answers := _ }, _, [], rfl, served_probe _ [] (by decide)⟩,
    ⟨{ State.reset with handshake := some .second, answers := _ }, _, [], rfl, served_probe _ [] (by decide)⟩, by decide⟩

theorem not_echo {x : Byte} {r : List Byte} (h : echoFound x r = false) : ¬ ∃ b a, r = b ++ [0xFA#8, x] ++ a := by
  rw [← echoFound_iff, h]
  decide

/-- A reply without the echo in each round; the write failed and short; silence for 3 polls and for 2; the poll failed; the
read failed and short. -/
theorem witness_ProbeRoundWithoutItsEchoIsFatal :
    (∃ (s : State) (zeros rest : List Answer), s.handshake = some .first ∧
      servedProbe s.params.syncPollLimit zeros [0xFA] s.answers rest) ∧
    (∃ (s : State) (zeros rest : List Answer), s.handshake = some .second ∧
      servedProbe s.params.syncPollLimit zeros [0xFA] s.answers rest) ∧
    (¬ ∃ b a, ([0xFA] : List Byte) = b ++ [0xFA#8, 0xAA#8] ++ a) ∧
    (¬ ∃ b a, ([0xFA] : List Byte) = b ++ [0xFA#8, 0xAB#8] ++ a) ∧
    (fails.ok = false ∧ (counts 0).count ≠ 1 ∧ (counts 2).count ≠ 1) ∧
    (silentSoFar (counts 1) (List.replicate 3 (counts 0)) ∧
      (List.replicate 3 (counts 0)).length = State.reset.params.syncPollLimit) ∧
    (silentSoFar (counts 1) (List.replicate 2 (counts 0)) ∧
      (List.replicate 2 (counts 0)).length < State.reset.params.syncPollLimit) ∧
    ((counts 2).ok = true ∧ (counts 2).count ≠ 0 ∧ (gives [0xFA]).bytes.length < (counts 2).count) :=
  ⟨⟨{ State.reset with handshake := some .first, answers := _ }, _, [], rfl, served_probe _ [] (by decide)⟩,
    ⟨{ State.reset with handshake := some .second, answers := _ }, _, [], rfl, served_probe _ [] (by decide)⟩,
    not_echo (by decide), not_echo (by decide), by decide, ⟨⟨rfl, rfl, by decide⟩, rfl⟩, ⟨⟨rfl, rfl, by decide⟩, by decide⟩,
    by decide⟩

theorem witness_BitOperationsActOnOneRegister : 0 ≤ 7 ∧ 7 ≤ 7 ∧ 7 < 8 := by decide

theorem witness_BitOperationLaws : (0 ≤ 7 ∧ 7 ≠ 0) ∧ (7 ≤ 7 ∧ 0 ≠ 7) := by decide

theorem witness_MaskGivesTheLastElementToBitZero :
    ([none, some true] : List (Option Bool)).length ≤ 8 ∧ 1 < ([none, some true] : List (Option Bool)).length ∧
      ([none, some true] : List (Option Bool)).length ≤ 2 ∧ (List.replicate 8 (some true)).length ≤ 8 ∧
      8 < (List.replicate 9 (some true)).length := by decide

theorem witness_ByteConversionsReadBackAndDoNotAlias : PinReg.direction .low ≠ PinReg.value .low := by decide

theorem witness_PinWriteAppendsTheBankRegisters : synced.sync = .synced := rfl

/-- Nothing is read back: the one answer is to the write. -/
theorem served_write {s : State} {out : List Byte} (h : s.answers = [counts out.length]) : s.Served out 0 [] [] := by
  rw [State.Served, if_pos rfl]
  exact ⟨rfl, counts out.length, h, rfl, rfl⟩

/-- `n` bytes are read back. -/
theorem served_read {s : State} {out resp : List Byte} {n : Nat} (hn : n ≠ 0) (hr : resp.length = n)
    (h : s.answers = [counts out.length, gives resp]) : s.Served out n resp [] := by
  rw [State.Served, if_neg hn]
  exact ⟨counts out.length, gives resp, h, rfl, rfl, rfl, by simp only [gives, ← hr, List.take_length], hr⟩

theorem witness_PinReadReturnsTheLastResponseByte :
    (∃ s : State, s.sync = .synced ∧ ([] : List Byte).length = s.rxexp.sum ∧
      s.Served (s.txbuf ++ [0x81#8, 0x87#8]) (s.rxexp.sum + 1) ([] ++ [0x7F]) []) ∧
    (∃ s : State, s.sync = .synced ∧ ([0x00] : List Byte).length = s.rxexp.sum ∧
      s.Served (s.txbuf ++ [0x83#8, 0x87#8]) (s.rxexp.sum + 1) ([0x00] ++ [0x7F]) []) :=
  ⟨⟨{ synced with answers := [counts 2, gives [0x7F]] }, rfl, rfl, served_read (by decide) rfl rfl⟩,
    ⟨{ c3 with answers := [counts 7, gives [0x00, 0x7F]] }, rfl, rfl, served_read (by decide) rfl rfl⟩⟩

theorem witness_DirectEnqueueAppendsOneFragment :
    synced.sync = .synced ∧ ([.setClkDiv 0x1234, .readBitsLow] : List Instr) ≠ [] ∧
      ([.setClkDiv 0x1234, .readBitsLow] : List Instr).all (pendable synced.params.cap) = true ∧
      pendable synced.params.cap (.setDriveZero 0x03 0x00) = true ∧ pendable bare.params.cap .loopbackOff = true := by decide

theorem witness_EncoderCallChangesNothing :
    (synced.sync = .synced ∧ Instr.en3Phase.isProbe = false ∧ Instr.en3Phase.available synced.params.cap = true ∧
      Instr.en3Phase.wellFormed = true) ∧
    (bare.sync = .synced ∧ (Instr.bitsInMsbRise 8).available bare.params.cap = true ∧
      (Instr.bitsInMsbRise 8).wellFormed = true) ∧
    ((Instr.bitsInMsbRise 9).isProbe = false ∧ (Instr.bitsInMsbRise 9).available bare.params.cap = true ∧
      (Instr.bitsInMsbRise 9).wellFormed = false) := by decide

/-- The second clause: nothing to send, a write that fails, one that does not, a read that fails, one that does not. -/
theorem witness_FlushWritesOnceAndReadsTheSum_everyFlush :
    (∃ t, perform (.i2cSendBytes []) synced = .next t ∧ t.results = synced.results ++ [.flags []]) ∧
    (synced.txbuf = [] ∧ (Request.i2cSendBytes []).sendsNothing synced.params = true ∧
      Request.i2cStop.sendsNothing addressed.params = false) ∧
    (∃ t, perform (.spiWrite []) f1 = .next t ∧ t.results = f1.results ++ [.error (.encodingError 0)]) ∧
    (addressed.rxexp.sum + Request.i2cStop.ownResponse = 0 ∧ synced.rxexp.sum + (Request.pinRead .low).ownResponse = 1) ∧
    (∃ s t : State, perform .i2cStop s = .next t ∧ t.results = s.results ++ [.error (.transportError .write)]) ∧
    (∃ s t : State, perform .i2cStop s = .next t ∧ t.results = s.results ++ [.done]) ∧
    (∃ s t : State, perform (.pinRead .low) s = .next t ∧ t.results = s.results ++ [.error (.transportError .read)]) ∧
    (∃ s t : State, perform (.pinRead .low) s = .next t ∧ t.results = s.results ++ [.byte 0x7F]) ∧
    (Request.i2cSendBytes []).flushes = true ∧ Request.i2cStop.flushes = true ∧ (Request.pinRead .low).flushes = true :=
  ⟨⟨_, rfl, rfl⟩, by decide, ⟨_, rfl, rfl⟩, by decide, ⟨{ addressed with answers := [fails] }, _, rfl, rfl⟩, ⟨{ addressed with answers := [counts 36] }, _, rfl, rfl⟩,
    ⟨{ synced with answers := [counts 2, gives []] }, _, rfl, rfl⟩,
    ⟨{ synced with answers := [counts 2, gives [0x7F]] }, _, rfl, rfl⟩, rfl, rfl, rfl⟩

theorem witness_FlushWritesOnceAndReadsTheSum :
    (synced.sync = .synced ∧ synced.txbuf = []) ∧ (c3.sync = .synced ∧ c3.txbuf ≠ [] ∧ c3.rxexp.sum ≠ 0) ∧
      (started.txbuf ≠ [] ∧ started.rxexp.sum = 0) ∧ fails.ok = false ∧
      ((counts 4).ok = true ∧ (counts 4).count ≠ c3.txbuf.length ∧ (counts 5).count = c3.txbuf.length) ∧
      ((gives []).bytes.length < c3.rxexp.sum ∧ (gives [0x00]).ok = true ∧ c3.rxexp.sum ≤ (gives [0x00]).bytes.length) := by
  decide

theorem witness_SlicesPartitionTheResponse :
    ([0x12, 0x34] : List Byte).length = ([1, 0, 1] : List Nat).sum ∧ 2 < ([1, 0, 1] : List Nat).length := by decide

theorem witness_HandshakeSucceedsOnBothEchoes :
    ∃ (s : State) (z1 z2 between : List Answer),
      servedProbe s.params.syncPollLimit z1 ([] ++ [0xFA#8, 0xAA#8] ++ []) s.answers between ∧
      servedProbe s.params.syncPollLimit z2 ([] ++ [0xFA#8, 0xAB#8] ++ []) between [] :=
  ⟨{ State.reset with answers := _ }, _, _, _, served_probe _ _ (by decide), served_probe _ [] (by decide)⟩

theorem witness_HandshakeAgainstSilenceIsASyncError :
    ∃ (s : State) (w : Answer) (zeros rest : List Answer), s.answers = w :: (zeros ++ rest) ∧ w.ok = true ∧ w.count = 1 ∧
      zeros.length = s.params.syncPollLimit ∧ ∀ a ∈ zeros, a.ok = true ∧ a.count = 0 :=
  ⟨{ State.reset with answers := [counts 1, counts 0, counts 0, counts 0] }, counts 1, [counts 0, counts 0, counts 0], [],
    rfl, rfl, rfl, rfl, by decide⟩

/-- The first round fails, and the second. -/
theorem witness_FailedFirstRoundEndsTheHandshake :
    (∃ (s t : State) (e : OpError), (s.beginHandshake.probe 0xAA#8).1 = .error e ∧ perform .syncHandshake s = .next t) ∧
    (∃ (s t u : State) (e : OpError), s.beginHandshake.probe 0xAA#8 = (.ok (), u) ∧
      ((u.setRound .second).probe 0xAB#8).1 = .error e ∧ perform .syncHandshake s = .next t) :=
  ⟨⟨{ State.reset with answers := [counts 1, counts 0, counts 0, counts 0] }, _, .syncError 0xAA none, by rfl, rfl⟩,
    ⟨{ State.reset with answers := [counts 1, counts 2, gives [0xFA, 0xAA], fails] }, _, _, .transportError .write,
      by rfl, by rfl, rfl⟩⟩

theorem witness_StartEmitsItsThreeLevels : synced.sync = .synced := rfl

/-- With nothing pending, and with a response pending. -/
theorem witness_StopEmitsItsThreeLevelsAndFlushes :
    (∃ s : State, s.sync = .synced ∧ 1 ≤ s.params.holdN ∧ s.Served (s.txbuf ++ p36) s.rxexp.sum [] []) ∧
    (∃ s : State, s.sync = .synced ∧ 1 ≤ s.params.holdN ∧ s.Served (s.txbuf ++ p36) s.rxexp.sum [0x00] []) :=
  ⟨⟨{ addressed with answers := [counts 36] }, rfl, by decide, served_write rfl⟩,
    ⟨{ c3 with low := pins 0x00 0x01, answers := [counts 41, gives [0x00]] }, rfl, by decide,
      served_read (by decide) rfl rfl⟩⟩

theorem witness_AddressSendReturnsTheAcknowledge :
    (∃ s : State, s.sync = .synced ∧ ([] : List Byte).length = s.rxexp.sum ∧
      s.Served (s.txbuf ++ ackedSend s.low s.params.sdaOutBit (BitVec.ofNat 8 ((0x50 * 2 + 0) % 256))) (s.rxexp.sum + 1)
        ([] ++ [0x00]) []) ∧
    (∃ (s : State) (w : Answer) (rest : List Answer), s.sync = .synced ∧ s.answers = w :: rest ∧
      (w.ok = false ∨ w.count ≠ (s.txbuf ++ ackedSend s.low s.params.sdaOutBit 0xA0).length)) :=
  ⟨⟨{ started with answers := [counts 48, gives [0x00]] }, rfl, rfl, served_read (by decide) rfl rfl⟩,
    ⟨{ started with answers := [counts 47] }, counts 47, [], rfl, rfl, .inr (by decide)⟩⟩

theorem witness_ByteSendReturnsTheAcknowledge :
    ∃ s : State, s.sync = .synced ∧ ([0x00] : List Byte).length = s.rxexp.sum ∧
      s.Served (s.txbuf ++ ackedSend s.low s.params.sdaOutBit 0x3C) (s.rxexp.sum + 1) ([0x00] ++ [0x01]) [] :=
  ⟨{ c3 with answers := [counts 17, gives [0x00, 0x01]] }, rfl, rfl, served_read (by decide) rfl rfl⟩

theorem witness_BytesSendReturnsOneAcknowledgePerByte :
    (∃ s : State, s.sync = .synced ∧ s.txbuf ++ [0x01, 0x02].flatMap (ackedSend s.low s.params.sdaOutBit) ≠ [] ∧
      ([0x00, 0x01] : List Byte).length = ([0x01, 0x02] : List Byte).length ∧
      s.Served (s.txbuf ++ [0x01, 0x02].flatMap (ackedSend s.low s.params.sdaOutBit)) (s.rxexp.sum + 2)
        ([] ++ [0x00, 0x01]) []) ∧
    (∃ s : State, s.sync = .synced ∧ s.txbuf ++ [].flatMap (ackedSend s.low s.params.sdaOutBit) ≠ [] ∧
      s.Served (s.txbuf ++ [].flatMap (ackedSend s.low s.params.sdaOutBit)) (s.rxexp.sum + 0) ([] ++ []) []) ∧
    (synced.sync = .synced ∧ synced.txbuf ++ [].flatMap (ackedSend synced.low synced.params.sdaOutBit) = []) :=
  ⟨⟨{ addressed with answers := [counts 24, gives [0x00, 0x01]] }, rfl, by decide, rfl, served_read (by decide) rfl rfl⟩,
    ⟨{ started with answers := [counts 36] }, rfl, by decide, served_write rfl⟩, rfl, rfl⟩

theorem witness_ReceiveReturnsTheByteClockedIn :
    ∃ s : State, s.sync = .synced ∧ ([] : List Byte).length = s.rxexp.sum ∧
      s.Served (s.txbuf ++ [0x22, 0x07, 0x80, s.low.value, setBit s.low.direction s.params.sdaOutBit, 0x13, 0x00, 0xFF,
        0x80, s.low.value, unsetBit s.low.direction s.params.sdaOutBit, 0x87]) (s.rxexp.sum + 1) ([] ++ [0x5A]) [] :=
  ⟨{ addressed with answers := [counts 12, gives [0x5A]] }, rfl, rfl, served_read (by decide) rfl rfl⟩

theorem witness_I2cOperationsKeepTheOtherPins :
    Request.i2cStart.i2cOp.isSome = true ∧ (∃ t, perform .i2cStart synced = .next t) ∧
      (3 < 8 ∧ 3 ≠ synced.params.sclBit.val ∧ 3 ≠ synced.params.sdaOutBit.val ∧ 3 ≠ synced.params.sdaInBit.val) :=
  ⟨rfl, ⟨_, rfl⟩, by decide⟩

theorem witness_FsmFollowsTheTransitionTable :
    ∃ (t : State) (res : OpResult), perform (.i2cSendBytes []) addressed = .next t ∧
      t.results = addressed.results ++ [res] ∧ res.isFatal = false :=
  ⟨_, .flags [], rfl, by decide, rfl⟩

theorem witness_SpiConfigureSetsIdleLevels :
    synced.sync = .synced ∧ (⟨.mode0, 7, .activeLow⟩ : SpiConfig).chipSelectPin ≤ 7 ∧
      7 < (⟨.mode0, 8, .activeLow⟩ : SpiConfig).chipSelectPin ∧ synced.spiCfg = none ∧
      (f1.sync = .synced ∧ f1.spiCfg = some ⟨.mode0, 3, .activeLow⟩) := by decide

/-- One policy of each of the three kinds. -/
theorem witness_SpiWriteSendsOneTransfer :
    (∃ s : State, s.sync = .synced ∧ s.spiCfg = some ⟨.mode0, 3, .activeLow⟩ ∧
      s.Served (s.txbuf ++ ([0x80, unsetBit s.low.value 3, s.low.direction] ++ [0x11, 0x00, 0x00, 0x9F] ++
        [0x80, setBit s.low.value 3, s.low.direction])) s.rxexp.sum [] []) ∧
    (∃ s : State, s.sync = .synced ∧ s.spiCfg = some ⟨.mode2, 4, .activeHigh⟩ ∧
      s.Served (s.txbuf ++ ([0x80, setBit s.low.value 4, s.low.direction] ++ [0x10, 0x00, 0x00, 0x9F] ++
        [0x80, unsetBit s.low.value 4, s.low.direction])) s.rxexp.sum [] []) ∧
    (∃ s : State, s.sync = .synced ∧ s.spiCfg = some ⟨.mode0, 5, .defaultLow⟩ ∧
      s.Served (s.txbuf ++ [0x11, 0x00, 0x00, 0x9F]) s.rxexp.sum [] []) :=
  ⟨⟨{ f1 with answers := [counts 10] }, rfl, rfl, served_write rfl⟩,
    ⟨{ f4 with answers := [counts 13] }, rfl, rfl, served_write rfl⟩,
    ⟨{ f5 with answers := [counts 7] }, rfl, rfl, served_write rfl⟩⟩

/-- One policy of each of the three kinds. -/
theorem witness_SpiReadWriteReturnsItsTransfer :
    (∃ s : State, s.sync = .synced ∧ s.spiCfg = some ⟨.mode0, 3, .activeLow⟩ ∧ ([] : List Byte).length = s.rxexp.sum ∧
      s.Served (s.txbuf ++ ([0x80, unsetBit s.low.value 3, s.low.direction] ++ [0x31, 0x00, 0x00, 0x9F] ++
        [0x80, setBit s.low.value 3, s.low.direction])) (s.rxexp.sum + 1) ([] ++ [0x12]) []) ∧
    (∃ s : State, s.sync = .synced ∧ s.spiCfg = some ⟨.mode2, 4, .activeHigh⟩ ∧ ([] : List Byte).length = s.rxexp.sum ∧
      s.Served (s.txbuf ++ ([0x80, setBit s.low.value 4, s.low.direction] ++ [0x34, 0x00, 0x00, 0x9F] ++
        [0x80, unsetBit s.low.value 4, s.low.direction])) (s.rxexp.sum + 1) ([] ++ [0x12]) []) ∧
    (∃ s : State, s.sync = .synced ∧ s.spiCfg = some ⟨.mode0, 5, .defaultLow⟩ ∧ ([] : List Byte).length = s.rxexp.sum ∧
      s.Served (s.txbuf ++ [0x31, 0x00, 0x00, 0x9F]) (s.rxexp.sum + 1) ([] ++ [0x12]) []) :=
  ⟨⟨{ f1 with answers := [counts 10, gives [0x12]] }, rfl, rfl, rfl, served_read (by decide) rfl rfl⟩,
    ⟨{ f4 with answers := [counts 13, gives [0x12]] }, rfl, rfl, rfl, served_read (by decide) rfl rfl⟩,
    ⟨{ f5 with answers := [counts 7, gives [0x12]] }, rfl, rfl, rfl, served_read (by decide) rfl rfl⟩⟩

theorem witness_SpiBadLengthMovesNothing :
    f1.sync = .synced ∧ f1.spiCfg ≠ none ∧ ([] : List Byte).length = 0 ∧
      65536 < (List.replicate 65537 (0x00 : Byte)).length ∧ (synced.sync = .synced ∧ synced.spiCfg = none) := by
  simp only [List.length_replicate]
  decide

theorem witness_SpiLoopbackReturnsTheData :
    ∃ (s : State) (w r : Answer), s.sync = .synced ∧ s.spiCfg ≠ none ∧ s.rxexp.sum = 0 ∧ s.answers = [w, r] ∧
      w.ok = true ∧ r.ok = true ∧ r.bytes = [0xDE, 0xAD] ∧
      ∀ t, perform (.spiReadWrite [0xDE, 0xAD]) s = .next t → ∀ out, .write out ∈ t.calls.drop s.calls.length →
        w.count = out.length := by
  refine ⟨{ f1 with answers := [counts 11, gives [0xDE, 0xAD]] }, counts 11, gives [0xDE, 0xAD], rfl, by decide, rfl, rfl,
    rfl, rfl, rfl, ?_⟩
  intro t ht out ho
  cases ht
  change TransportCall.write out ∈ [.write [0x80, 0x00, 0x0B, 0x31, 0x01, 0x00, 0xDE, 0xAD, 0x80, 0x08, 0x0B], .read 2] at ho
  simp only [List.mem_cons, TransportCall.write.injEq, reduceCtorEq, List.not_mem_nil, or_false] at ho
  rw [ho]
  rfl

theorem witness_StepRunsTheDecodedCommand :
    (({ synced with requests := [.wire .readBitsLow] } : State).lock = .free ∧
      ({ synced with requests := [.spiWrite [0x9F], .flush] } : State).lock = .free) ∧
      decodeTableWord 24 0x1D86 = some (.setClkDiv 0x001D) ∧ decodeTableWord 8 0x11 = some (.bytesOutMsbFall [0x00]) ∧
      decodeTableWord 8 0xAA = some .syncProbe1 ∧ decodeTableWord 8 0xAB = some .syncProbe2 := by
  decide

theorem witness_LockIsHeldOverAnOperation :
    (∃ t, perform .flush synced = .next t) ∧ (∃ t, step synced = .next t) ∧ (synced.lock = .free ∧ synced.requests = []) ∧
      ({ synced with lock := .held } : State).lock = .held :=
  ⟨⟨_, rfl⟩, ⟨_, rfl⟩, ⟨rfl, rfl⟩, rfl⟩

theorem witness_EveryStepKeepsTheInvariant :
    ∃ s t : State, Inv s ∧ step s = .next t ∧ t.txbuf ≠ s.txbuf :=
  ⟨{ c3 with requests := [.wire .readBitsLow] }, _,
    { lock_free := rfl
      no_handshake := rfl
      synced_no_fault := fun _ => rfl
      unsynced_empty := fun h => nomatch h
      never_stopped := by decide
      buffers_together := by decide
      whole_commands := ⟨[.setBitsLow 0x00 0x01, .bitsInMsbRise 1], by decide, by decide⟩
      spi_pin_in_range := fun _ h => nomatch h
      shadows_one_way := by decide
      shadows_gated := by decide }, rfl, by decide⟩

theorem witness_EveryOperationRepliesOnce : synced.handshake = none ∧ ∃ t, perform .flush synced = .next t := ⟨rfl, _, rfl⟩

theorem witness_ArgumentErrorsChangeNothing :
    ∃ (t : State) (e : OpError), perform (.setBit (.value .low) 8) synced = .next t ∧
      t.results = synced.results ++ [.error e] ∧ e.fatal = none :=
  ⟨_, .rangeError 8, rfl, by decide, rfl⟩

/-- One of each fatal class, and one of each kind of operation that writes bank `LOW` before it fails. -/
theorem witness_FatalErrorsLeaveTheFatalState :
    (∃ (s t : State), perform .i2cStop s = .next t ∧ t.results = s.results ++ [.error (.transportError .write)]) ∧
    (∃ (s t : State), perform (.i2cSendBytes [0x01]) s = .next t ∧
      t.results = s.results ++ [.error (.transportError .write)]) ∧
    (∃ (s t : State), perform (.spiWrite [0x9F]) s = .next t ∧
      t.results = s.results ++ [.error (.transportError .write)]) ∧
    (∃ (s t : State) (e : OpError), perform .flush s = .next t ∧ t.results = s.results ++ [.error e] ∧
      e.fatal = some .transportError) ∧
    (∃ (s t : State) (e : OpError), perform .syncHandshake s = .next t ∧ t.results = s.results ++ [.error e] ∧
      e.fatal = some .syncError) :=
  ⟨⟨{ addressed with answers := [fails] }, _, rfl, rfl⟩, ⟨{ addressed with answers := [fails] }, _, rfl, rfl⟩,
    ⟨{ f1 with answers := [fails] }, _, rfl, rfl⟩, ⟨c6, _, .transportError .write, rfl, by decide, rfl⟩,
    ⟨{ State.reset with answers := [counts 1, counts 0, counts 0, counts 0] }, _, .syncError 0xAA none, rfl, by decide, rfl⟩⟩

theorem witness_UnsyncedRequestsAreRefused :
    State.reset.sync = .unsynced ∧ State.reset.handshake = none ∧
      (Request.i2cStart.isPinOperation = false ∧ Request.i2cStart ≠ .syncHandshake ∧ Request.i2cStart.isBringUp = false) ∧
      ((Request.wire .syncProbe1).isPinOperation = false ∧ Request.wire .syncProbe1 ≠ .syncHandshake ∧
        (Request.wire .syncProbe1).isBringUp = false) := by decide

theorem witness_FormedRequestsComplete :
    (synced.sync = .synced ∧ Request.formed synced (.wire .disClkDiv5) = true) ∧
      (Request.syncHandshake.needsSync = false ∧ Request.formed State.reset .syncHandshake = true) ∧
      ((Request.bringUp .close).needsSync = false ∧ Request.formed State.reset (.bringUp .close) = true) ∧
      Request.formed synced (.enqueue [0x86, 0x34, 0x12, 0x81] 1) = true ∧
      Request.formed synced (.spiConfigure ⟨.mode0, 7, .activeLow⟩) = true ∧
      Request.formed f1 (.spiConfigure ⟨.mode0, 4, .activeHigh⟩) = true ∧
      Request.formed f1 (.spiConfigure ⟨.mode0, 8, .activeLow⟩) = true ∧ Request.formed f1 (.spiWrite []) = true := by decide

theorem witness_PinRegistersAreWrittenOnlyByTheirOwners :
    ((∃ t, perform .flush synced = .next t) ∧ Request.flush.isPinOperation = false ∧ Request.flush.i2cOp = none ∧
      Request.flush.isSpi = false) ∧
    ((∃ t, perform (.setBit (.value .low) 0) synced = .next t) ∧
      (Request.setBit (.value .low) 0).pinReg = some (.value .low) ∧ PinReg.direction .low ≠ .value .low) :=
  ⟨⟨⟨_, rfl⟩, rfl, rfl, rfl⟩, ⟨_, rfl⟩, rfl, by decide⟩

theorem witness_ConfigurationIsWrittenOnlyByItsCommands :
    (∃ t, perform (.spiConfigure ⟨.mode0, 4, .activeHigh⟩) f1 = .next t ∧ f1.spiCfg ≠ none) ∧
    (∃ t, perform (.spiConfigure ⟨.mode0, 8, .activeHigh⟩) f1 = .next t) ∧
    (∃ t, perform (.spiConfigure ⟨.mode0, 3, .activeLow⟩) f1 = .next t ∧ f1.spiCfg = some ⟨.mode0, 3, .activeLow⟩ ∧
      Request.configuresOnce f1 (.spiConfigure ⟨.mode0, 3, .activeLow⟩) = true) ∧
    (Request.configuresOnce synced (.spiConfigure ⟨.mode0, 3, .activeLow⟩) = true ∧
      Request.configuresOnce f1 (.spiConfigure ⟨.mode0, 4, .activeHigh⟩) = false) ∧
    ∃ (t : State) (res : OpResult), perform .flush synced = .next t ∧ t.results = synced.results ++ [res] ∧
      (∀ cfg, Request.flush ≠ .spiConfigure cfg) ∧ res.isFatal = false ∧ Request.flush.isDirectEnqueue = false :=
  ⟨⟨_, rfl, by decide⟩, ⟨_, rfl⟩, ⟨_, rfl, rfl, by decide⟩, by decide, _, .bytes [], rfl, by decide, (by intro cfg h; cases h), rfl, rfl⟩

theorem witness_OutboundBytesKeepEnqueueOrder :
    ∃ (t : State) (res : OpResult), synced.handshake = none ∧ perform .i2cStart synced = .next t ∧
      t.results = synced.results ++ [res] ∧ res.isFatal = false ∧ Request.i2cStart ≠ .syncHandshake :=
  ⟨_, .done, rfl, rfl, by decide, rfl, by decide⟩

theorem witness_TransportCallsAreBounded :
    (∃ t, perform .syncHandshake { State.reset with answers := echoes } = .next t) ∧
      (∃ t, perform (.wire .syncProbe1) { State.reset with handshake := some .first, answers := echoes } = .next t ∧
        (Request.wire .syncProbe1).isProbeRound = true) ∧
      (∃ t, perform (.bringUp .close) { State.reset with answers := [counts 0] } = .next t ∧
        (Request.bringUp .close).isBringUp = true) ∧
      (∃ t, perform .flush c6 = .next t) :=
  ⟨⟨_, rfl⟩, ⟨_, rfl, rfl⟩, ⟨_, rfl, rfl⟩, ⟨_, rfl⟩⟩

theorem witness_NothingIsExpectedBetweenOperations :
    (∃ (t : State) (res : OpResult), perform .flush c6 = .next t ∧ t.results = c6.results ++ [res] ∧
      Request.flush.flushes = true ∧ ∀ n, res ≠ .error (.encodingError n)) ∧
    (∃ (t : State) (res : OpResult), perform .i2cStart started = .next t ∧ t.results = started.results ++ [res] ∧
      Request.i2cStart.isDirectEnqueue = false ∧ started.nothingExpected) :=
  ⟨⟨_, .error (.transportError .write), rfl, by decide, rfl, (by intro n h; cases h)⟩,
    ⟨_, .done, rfl, by decide, rfl, by unfold State.nothingExpected; decide⟩⟩

theorem witness_ServiceReturnsOnlyThroughTheHandshake :
    ∃ (s t : State), s.handshake = none ∧ perform .syncHandshake s = .next t ∧ (s.sync = .unsynced ∧ t.sync = .synced) ∧
      (s.fault ≠ none ∧ t.fault = none) :=
  ⟨{ State.reset with fault := some .syncError, answers := echoes }, _, rfl, rfl, by decide, by decide⟩

theorem witness_ClockFrequencyFollowsTheFormula :
    (0x0000#16).toNat ≤ (0xFFFF#16).toNat ∧
      (({ bare with cfg := { Shadow.unknown with clkdiv := some 0xFFFF } } : State).cfg.clkdiv = some 0xFFFF ∧
        bare.params.cap.hasClockDivideBy5 = false) ∧
      (synced.params.cap.hasClockDivideBy5 = true ∧
        ({ synced with cfg := { Shadow.unknown with clkdiv := some 0, div5 := some false } } : State).cfg.div5 =
          some false) ∧
      (({ synced with cfg := { Shadow.unknown with clkdiv := some 0 } } : State).cfg.div5 = none ∧
        ({ synced with cfg := { Shadow.unknown with clkdiv := some 0, div5 := some true } } : State).cfg.div5 = some true) ∧
      synced.cfg.clkdiv = none := by decide

theorem witness_BringUpFailureIsATransportError :
    ∃ (s : State), s.answers = [fails] ∧ fails.ok = false ∧ (counts 0).ok = true :=
  ⟨{ State.reset with answers := [fails] }, rfl, rfl, rfl⟩

end Sys2Proof.Tests
end

/-! PROOFS. What the decoder reads is what the encoder writes (R70 to R81, R85), and what it means for an operation to
complete: one reply after those before it, calls after those before them, and whole commands at the end of the outbound
stream (R8, R55, R64). -/

namespace Sys2Proof

/-! ## Whatever decodes reencodes -/

/-- The bytes `bs` are the encoding of the well-formed command `i` and the bytes `rest` after it. -/
def Reencodes (bs : List Byte) (i : Instr) (rest : List Byte) : Prop :=
  i.wellFormed = true ∧ bs = encode i ++ rest

/-- What `out` reads from the bytes `bs`, if it reads a command, reencodes to them. -/
def Reads (bs : List Byte) (out : Except DecodeError (Instr × List Byte)) : Prop :=
  ∀ i rest, out = .ok (i, rest) → Reencodes bs i rest

namespace Reads

variable {op k : Byte} {bs : List Byte}

theorem error (e : DecodeError) : Reads bs (.error e) := nofun

theorem ite {x y : Except DecodeError (Instr × List Byte)} (hx : op = k → Reads bs x) (hy : Reads bs y) :
    Reads bs (if op = k then x else y) := by
  split
  · next hop => exact hx hop
  · exact hy

/-- A command that is its opcode alone. -/
theorem opcode {i : Instr} (hw : i.wellFormed = true) (he : encode i = [k]) (hop : op = k) :
    Reads (op :: bs) (.ok (i, bs)) := by
  rintro _ _ ⟨⟩
  exact ⟨hw, by rw [he, hop]; rfl⟩

theorem two {mk : Byte → Byte → Instr} (hw : ∀ a b, (mk a b).wellFormed = true) (he : ∀ a b, encode (mk a b) = [k, a, b])
    (hop : op = k) : Reads (op :: bs) (decodeTwo op (fun a b r => .ok (mk a b, r)) bs) := by
  intro i rest h
  obtain ⟨a, b, r, rfl, hk⟩ := decodeTwo_ok h
  cases hk
  exact ⟨hw a b, by rw [he, hop]; rfl⟩

theorem payload {mk : List Byte → Instr} (hw : ∀ p, (mk p).wellFormed = payloadOk p)
    (he : ∀ p, encode (mk p) = encodePayload k p) (hop : op = k) : Reads (op :: bs) (decodePayload op mk bs) := by
  intro i rest h
  obtain ⟨p, hp, rfl, hb⟩ := decodePayload_ok h
  exact ⟨(hw p).trans hp, by rw [he, hb, hop]⟩

theorem bitsIn (hop : op = 0x22#8) :
    Reads (op :: bs) (decodeOne op (fun nbits => decodeBitCount op nbits .bitsInMsbRise) bs) := by
  intro i rest h
  obtain ⟨nbits, r, rfl, hk⟩ := decodeOne_ok h
  obtain ⟨n, hn, rfl, rfl, rfl⟩ := decodeBitCount_ok hk
  exact ⟨hn, by rw [hop]; rfl⟩

theorem bitsOut (hop : op = 0x13#8) : Reads (op :: bs)
    (decodeTwo op (fun nbits data => decodeBitCount op nbits (fun n => .bitsOutMsbFall n data)) bs) := by
  intro i rest h
  obtain ⟨nbits, data, r, rfl, hk⟩ := decodeTwo_ok h
  obtain ⟨n, hn, rfl, rfl, rfl⟩ := decodeBitCount_ok hk
  exact ⟨hn, by rw [hop]; rfl⟩

end Reads

/-- The two operand bytes of a divisor are written back as they were read (R53, R73). -/
theorem encode_setClkDiv_u16 (l u : Byte) : encode (.setClkDiv (BitVec.ofNat 16 (u16 l u))) = [0x86#8, l, u] := by
  simp [encode, Nat.mod_eq_of_lt (u16_lt l u), lo8_u16, hi8_u16]

/-- Whatever decodes is well formed, and was read from its encoding (R70 to R81): one branch per opcode of R83, in the
order of `decode`. -/
theorem decode_reads (bs : List Byte) : Reads bs (decode bs) := by
  rcases bs with _ | ⟨op, bs⟩
  · exact .error _
  · exact .ite (.payload (fun _ => rfl) (fun _ => rfl)) <|
      .ite .bitsOut <| .ite .bitsIn <|
      .ite (.two (fun _ _ => rfl) (fun _ _ => rfl)) <| .ite (.two (fun _ _ => rfl) (fun _ _ => rfl)) <|
      .ite (.opcode rfl rfl) <| .ite (.opcode rfl rfl) <|
      .ite (.two (fun _ _ => rfl) encode_setClkDiv_u16) <|
      .ite (.opcode rfl rfl) <| .ite (.opcode rfl rfl) <| .ite (.opcode rfl rfl) <| .ite (.opcode rfl rfl) <|
      .ite (.two (fun _ _ => rfl) (fun _ _ => rfl)) <|
      .ite (.payload (fun _ => rfl) (fun _ => rfl)) <| .ite (.payload (fun _ => rfl) (fun _ => rfl)) <|
      .ite (.payload (fun _ => rfl) (fun _ => rfl)) <|
      .ite (.opcode rfl rfl) <| .ite (.opcode rfl rfl) <| .error _

/-- A stream that decodes is the concatenation of the encodings of well-formed commands (R56, R85). -/
theorem decodeStreamFuel_reencodes {fuel : Nat} {bs : List Byte} {is : List Instr}
    (h : decodeStreamFuel fuel bs = some is) : (∀ i ∈ is, i.wellFormed = true) ∧ bs = is.flatMap encode := by
  induction fuel generalizing bs is with
  | zero =>
    cases bs with
    | nil => cases h; simp
    | cons b bs => cases h
  | succ fuel ih =>
    cases bs with
    | nil => cases h; simp
    | cons b bs =>
      rw [decodeStreamFuel] at h
      split at h
      · next i rest hd =>
        obtain ⟨js, hjs, rfl⟩ := Option.map_eq_some_iff.mp h
        obtain ⟨hw, hb⟩ := decode_reads _ i rest hd
        obtain ⟨hws, rfl⟩ := ih hjs
        exact ⟨by simpa using ⟨hw, hws⟩, by simpa using hb⟩
      · cases h

theorem decodeStream_reencodes {bs : List Byte} {is : List Instr} (h : decodeStream bs = some is) :
    (∀ i ∈ is, i.wellFormed = true) ∧ bs = is.flatMap encode :=
  decodeStreamFuel_reencodes h

end Sys2Proof

namespace Sys2Proof.Machine

/-! ## What an encoder function returns -/

/-- R121: a byte command that is returned has a legal payload and is in its format. -/
theorem byteCommand_ok {op : Byte} {p : List Byte} {e : Nat} {c : Encoded} (h : byteCommand op p e = .ok c) :
    payloadOk p = true ∧ c.1 = encodePayload op p := by
  rw [byteCommand] at h
  split at h
  · cases h
  · next hl =>
    cases h
    simp only [Config.maxLen] at hl
    exact ⟨(payloadOk_iff p).2 ⟨by omega, by omega⟩, rfl⟩

/-- R122: a bit command that is returned has a legal count and is in its format. -/
theorem bitCommand_ok {op : Byte} {n e : Nat} {operands : List Byte} {c : Encoded}
    (h : bitCommand op n operands e = .ok c) : bitCountOk n = true ∧ c.1 = op :: lo8 (n - 1) :: operands := by
  rw [bitCommand] at h
  split at h
  · cases h
  · next hl =>
    cases h
    simp only [Config.maxBits] at hl
    exact ⟨(bitCountOk_iff n).2 ⟨by omega, by omega⟩, rfl⟩

/-- What an encoder function returns is the encoding of its command, whose operands are in range (R120 to R122). -/
theorem encoderOf_ok {i : Instr} {c : Encoded} (h : encoderOf i = some (.ok c)) :
    i.wellFormed = true ∧ i.isProbe = false ∧ c.1 = encode i := by
  cases i with
  | bytesOutMsbFall p | bytesOutMsbRise p | bytesInOutMsbRiseInFallOut p | bytesInOutMsbFallInRiseOut p =>
    obtain ⟨hw, he⟩ := byteCommand_ok (Option.some.inj h)
    exact ⟨hw, rfl, he⟩
  | bitsOutMsbFall n _ | bitsInMsbRise n =>
    obtain ⟨hw, he⟩ := bitCommand_ok (Option.some.inj h)
    exact ⟨hw, rfl, he⟩
  | syncProbe1 | syncProbe2 => cases h
  | setBitsLow _ _ | setBitsHigh _ _ | readBitsLow | readBitsHigh | setClkDiv _ | sendImmediate | disClkDiv5 | en3Phase
  | loopbackOff | setDriveZero _ _ => cases h; exact ⟨rfl, rfl, rfl⟩

/-- A command whose encoder function returned is pendable where its capability is present (R56, R152). -/
theorem pendable_of_encoderOf {i : Instr} {c : Encoded} {cap : Capabilities} (h : encoderOf i = some (.ok c))
    (ha : i.available cap = true) : pendable cap i = true := by
  obtain ⟨hw, hp, _⟩ := encoderOf_ok h
  simp [pendable, hw, hp, ha]

/-! ## One reply, and calls after calls (R8, R12) -/

/-- From `s` to `t` nothing was returned, and the calls made come after those made before. -/
structure State.MakesCalls (s t : State) : Prop where
  results : t.results = s.results
  calls : ∃ calls, t.calls = s.calls ++ calls

theorem State.MakesCalls.refl (s : State) : s.MakesCalls s := ⟨rfl, [], by simp⟩

theorem State.MakesCalls.trans {s t u : State} (h : s.MakesCalls t) (h' : t.MakesCalls u) : s.MakesCalls u := by
  obtain ⟨cs, hc⟩ := h.calls
  obtain ⟨cs', hc'⟩ := h'.calls
  exact ⟨h'.results.trans h.results, cs ++ cs', by rw [hc', hc, List.append_assoc]⟩

/-- From `s` to `t` one result or error was returned, and no log was rewritten. -/
def State.RepliesOnce (s t : State) : Prop :=
  (∃ res, t.results = s.results ++ [res]) ∧ ∃ calls, t.calls = s.calls ++ calls

theorem State.MakesCalls.reply {s t : State} (h : s.MakesCalls t) (res : OpResult) : s.RepliesOnce (t.reply res) :=
  ⟨⟨res, by rw [State.reply_results, h.results]⟩, h.calls⟩

theorem State.MakesCalls.raise {s t : State} (h : s.MakesCalls t) (e : OpError) : s.RepliesOnce (t.raise e) :=
  ⟨⟨.error e, by rw [State.raise_results, h.results]⟩, by simpa using h.calls⟩

/-! ## What an operation does before its reply -/

/-- From `s` to `t` nothing was returned, and what joined the outbound stream joined its end, as whole pendable commands
(R8, R55). -/
structure State.Advances (s t : State) : Prop extends s.MakesCalls t where
  params : t.params = s.params
  outbound : ∃ is : List Instr, is.all (pendable s.params.cap) = true ∧ t.outbound = s.outbound ++ is.flatMap encode

namespace State.Advances

/-- A change of anything else than the parameters, the pending bytes and the two logs. -/
theorem of_same {s t : State} (hr : t.results = s.results) (hc : t.calls = s.calls) (hp : t.params = s.params)
    (ht : t.txbuf = s.txbuf) : s.Advances t :=
  ⟨⟨hr, [], by simp [hc]⟩, hp, [], rfl, by simp [State.outbound, hc, ht]⟩

theorem refl (s : State) : s.Advances s := of_same rfl rfl rfl rfl

theorem trans {s t u : State} (h : s.Advances t) (h' : t.Advances u) : s.Advances u := by
  obtain ⟨is, ha, ho⟩ := h.outbound
  obtain ⟨js, ha', ho'⟩ := h'.outbound
  rw [h.params] at ha'
  exact ⟨h.toMakesCalls.trans h'.toMakesCalls, h'.params.trans h.params, is ++ js, by simp [ha, ha'], by simp [ho', ho]⟩

variable {s t : State}

theorem setPin (h : s.Advances t) (r : PinReg) (v : Byte) : s.Advances (t.setPin r v) :=
  h.trans (of_same (by simp) (by simp) (by simp) (by simp))

theorem setFsm (h : s.Advances t) (f : Fsm) : s.Advances (t.setFsm f) := h.trans (of_same rfl rfl rfl rfl)

theorem recordAll (h : s.Advances t) (is : List Instr) : s.Advances (t.recordAll is) := h.trans (of_same rfl rfl rfl rfl)

/-- Appending whole commands as one fragment (R160). -/
theorem enqueueAll (h : s.Advances t) {is : List Instr} {c : Encoded} (ha : is.all (pendable s.params.cap) = true)
    (hc : c.1 = is.flatMap encode) : s.Advances (t.enqueue c) :=
  h.trans ⟨⟨rfl, [], by simp⟩, rfl, is, by rw [h.params]; exact ha, by simp [State.outbound, hc]⟩

/-- Appending what an encoder function returned (R89, R160). -/
theorem enqueue (h : s.Advances t) {c : Encoded} (i : Instr) (hi : encoderOf i = some (.ok c))
    (ha : i.available s.params.cap = true) : s.Advances (t.enqueue c) := by
  obtain ⟨_, _, he⟩ := encoderOf_ok hi
  exact h.enqueueAll (is := [i]) (by simp [pendable_of_encoderOf hi ha]) (by simp [he])

theorem enqueueEncoded (h : s.Advances t) {r : Except OpError Encoded} (i : Instr) (hi : encoderOf i = some r)
    (ha : i.available s.params.cap = true) : s.Advances (t.enqueueEncoded r) := by
  cases r with
  | ok c => exact h.enqueue i hi ha
  | error e => exact h

theorem emitLow (h : s.Advances t) (k : Nat) : s.Advances (t.emitLow k) := by
  induction k generalizing t with
  | zero => exact h
  | succ k ih => exact ih (h.enqueue (.setBitsLow _ _) rfl rfl)

theorem raiseLine (h : s.Advances t) (i : Nat) : s.Advances (t.raiseLine i) := (h.setPin _ _).emitLow _

theorem dropLine (h : s.Advances t) (i : Nat) : s.Advances (t.dropLine i) := (h.setPin _ _).emitLow _

theorem driveSda (h : s.Advances t) : s.Advances t.driveSda := (h.setPin _ _).emitLow _

theorem releaseSda (h : s.Advances t) : s.Advances t.releaseSda := (h.setPin _ _).emitLow _

theorem startBothHigh (h : s.Advances t) : s.Advances t.startBothHigh := ((h.setPin _ _).setPin _ _).emitLow _

theorem stopBothLow (h : s.Advances t) : s.Advances t.stopBothLow := ((h.setPin _ _).setPin _ _).emitLow _

theorem sendCore (h : s.Advances t) (b : Byte) : s.Advances (t.sendCore b) :=
  ((h.driveSda.enqueueEncoded (.bytesOutMsbFall [b]) rfl rfl).releaseSda).enqueueEncoded (.bitsInMsbRise 1) rfl rfl

theorem sendAll (h : s.Advances t) (bytes : List Byte) : s.Advances (t.sendAll bytes) := by
  induction bytes generalizing t with
  | nil => exact h
  | cons b bs ih => exact ih (h.sendCore b)

theorem receiveCore (h : s.Advances t) (ack : Bool) : s.Advances (t.receiveCore ack) :=
  (((h.enqueueEncoded (.bitsInMsbRise 8) rfl rfl).driveSda.enqueueEncoded (.bitsOutMsbFall 1 (ackByte ack)) rfl
    rfl).releaseSda).enqueue .sendImmediate rfl rfl

theorem assertCs (h : s.Advances t) (cfg : SpiConfig) : s.Advances (t.assertCs cfg) := by
  rw [State.assertCs]
  split
  · exact h
  · exact (h.setPin _ _).emitLow _

theorem deassertCs (h : s.Advances t) (cfg : SpiConfig) : s.Advances (t.deassertCs cfg) := by
  rw [State.deassertCs]
  split
  · exact h
  · exact (h.setPin _ _).emitLow _

theorem spiTransfer (h : s.Advances t) (cfg : SpiConfig) {c : Encoded} (i : Instr) (hi : encoderOf i = some (.ok c))
    (ha : i.available s.params.cap = true) : s.Advances (t.spiTransfer cfg c) :=
  ((h.assertCs cfg).enqueue i hi ha).deassertCs cfg

end State.Advances

/-! ## How an operation completes -/

/-- The two ways an operation completes: it replies, or a fatal error drops what was pending (R241 to R244). -/
inductive State.Completes (s : State) : State → Prop
  | reply {t : State} (h : s.Advances t) (res : OpResult) : s.Completes (t.reply res)
  | fatal {t : State} {e : OpError} {f : FatalError} (h : s.MakesCalls t) (hf : e.fatal = some f) :
    s.Completes (t.raise e)

theorem State.Advances.raise {s t : State} (h : s.Advances t) (e : OpError) : s.Completes (t.raise e) := by
  cases hf : e.fatal with
  | some f => exact .fatal h.toMakesCalls hf
  | none =>
    rw [State.raise_eq, hf]
    exact .reply h _

theorem State.Completes.repliesOnce {s t : State} (h : s.Completes t) : s.RepliesOnce t := by
  cases h with
  | reply h res => exact h.toMakesCalls.reply res
  | fatal h _ => exact h.raise _

/-- An operation whose reply is no fatal error has only added whole commands to the outbound stream. -/
theorem State.Completes.outbound {s t : State} {res : OpResult} (h : s.Completes t) (hr : t.results = s.results ++ [res])
    (hf : res.isFatal = false) :
    ∃ is : List Instr, is.all (pendable s.params.cap) = true ∧ t.outbound = s.outbound ++ is.flatMap encode := by
  cases h with
  | reply h _ => exact h.outbound
  | fatal h he =>
    rw [State.raise_results, h.results, List.append_cancel_left_eq, List.singleton_inj] at hr
    rw [← hr, OpResult.isFatal, he] at hf
    cases hf

/-- Every end of an attempt: success has advanced, failure is fatal and has only made calls. -/
def State.Attempts {α : Type} (s : State) : Attempt α → Prop
  | (.ok _, t) => s.Advances t
  | (.error e, t) => s.MakesCalls t ∧ ∃ f, e.fatal = some f

theorem State.Attempts.finish {α : Type} {s : State} {a : Attempt α} {k : α → State → State} (h : s.Attempts a)
    (hk : ∀ v t, s.Advances t → s.Completes (k v t)) : s.Completes (finish a k) := by
  obtain ⟨r, t⟩ := a
  cases r with
  | ok v => exact hk v t h
  | error e =>
    obtain ⟨hc, f, hf⟩ := h
    exact .fatal hc hf

/-- A call leaves the state after it with the call made. -/
theorem State.makesCalls_afterCall (s : State) (c : TransportCall) : s.MakesCalls (s.afterCall c) := ⟨rfl, [c], rfl⟩

theorem State.flush_makesCalls (s : State) : s.MakesCalls s.flush.2 := by
  rcases h : s.flush with ⟨r, t⟩
  rcases State.flush_cases h with ⟨_, _, rfl⟩ | ⟨_, _, rfl⟩ | ⟨_, _, _, rfl⟩ | ⟨_, _, _, rfl⟩ | ⟨_, _, _, _, _, rfl⟩
  · exact ⟨rfl, [], by simp⟩
  · exact ⟨rfl, _, rfl⟩
  · exact ⟨rfl, _, rfl⟩
  · exact ⟨rfl, _, List.append_assoc _ _ _⟩
  · exact ⟨rfl, _, List.append_assoc _ _ _⟩

/-- A flush moves the pending bytes to the wire, or fails with a fatal error (R162, R165). -/
theorem State.Advances.flush {s t : State} (h : s.Advances t) : s.Attempts t.flush := by
  have hc := t.flush_makesCalls
  rcases hf : t.flush with ⟨r, u⟩
  rw [hf] at hc
  cases r with
  | ok resp =>
    obtain ⟨_, _, ho⟩ := State.flush_outbound hf
    obtain ⟨_, _, _, _, _, rfl⟩ : t.OnlyBuffers u := by simpa [hf] using t.flush_onlyBuffers
    exact h.trans ⟨hc, rfl, [], rfl, by simpa using ho⟩
  | error e =>
    obtain ⟨f, rfl⟩ := State.flush_error (congrArg Prod.fst hf)
    exact ⟨h.toMakesCalls.trans hc, _, rfl⟩

/-- A bring-up call is no part of the wire stream (R262). -/
theorem State.transportBringUp_attempts (s : State) (c : BringUpCall) : s.Attempts (s.transportBringUp c) := by
  have hc := s.makesCalls_afterCall (.bringUp c)
  rw [State.transportBringUp]
  split
  · exact ⟨hc, rfl, [], rfl, by simp [State.outbound, wireStream_append, wireStream]⟩
  · exact ⟨hc, _, rfl⟩

/-! ## Every outcome of a request that is an end completes it -/

/-- An outcome that is a next state completes an operation begun in `s`. -/
def State.Ends (s : State) (out : Result) : Prop := ∀ t, out = .next t → s.Completes t

namespace State.Ends

variable {s : State}

theorem next {t : State} (h : s.Completes t) : s.Ends (.next t) := by
  rintro _ ⟨⟩
  exact h

theorem refused (r : Refusal) : s.Ends (.refused r) := fun _ h => nomatch h

theorem whenSynced {t : State} {body : Result} (h : s.Ends body) : s.Ends (whenSynced t body) :=
  fun u hu => h u (whenSynced_next hu).2

theorem whenCapable {c : Bool} {body : Result} (h : s.Ends body) : s.Ends (whenCapable c body) :=
  fun u hu => h u (whenCapable_next hu).2

theorem whenConfigured {t : State} {body : SpiConfig → Result} (h : ∀ cfg, s.Ends (body cfg)) :
    s.Ends (whenConfigured t body) := fun u hu => by
  obtain ⟨cfg, _, hb⟩ := whenConfigured_next hu
  exact h cfg u hb

theorem whenInRange {i : Nat} {body : Result} (h : s.Ends body) : s.Ends (whenInRange s i body) := fun u hu => by
  rcases whenInRange_next hu with rfl | hb
  · exact (Advances.refl s).raise _
  · exact h u hb

theorem updatePin (r : PinReg) (v : Byte) : s.Ends (updatePin s r v) := .next (.reply ((Advances.refl s).setPin r v) _)

end State.Ends

/-! ### The pin registers -/

theorem pinMask_ends (s : State) (r : PinReg) (bits : List (Option Bool)) : s.Ends (pinMask s r bits) := by
  rw [pinMask]
  split
  · exact .next ((State.Advances.refl s).raise _)
  · exact .updatePin r _

theorem pinWrite_ends (s : State) (b : Bank) : s.Ends (pinWrite s b) := by
  refine .whenSynced (.next (.reply ?_ _))
  cases b with
  | low => exact (State.Advances.refl s).enqueue (.setBitsLow _ _) rfl rfl
  | high => exact (State.Advances.refl s).enqueue (.setBitsHigh _ _) rfl rfl

theorem pinRead_ends (s : State) (b : Bank) : s.Ends (pinRead s b) := by
  have hread : s.Advances (s.enqueue (readBitsCommand b)) := by
    cases b with
    | low => exact (State.Advances.refl s).enqueue .readBitsLow rfl rfl
    | high => exact (State.Advances.refl s).enqueue .readBitsHigh rfl rfl
  exact .whenSynced (.next ((hread.enqueue .sendImmediate rfl rfl).flush.finish fun _ _ h => .reply h _))

/-! ### The wire commands and the buffer -/

theorem enqueueOp_ends {s t : State} {r : Except OpError Encoded} (h : s.Advances t) (i : Instr)
    (hi : encoderOf i = some r) (ha : i.available s.params.cap = true) : s.Ends (enqueueOp t r) := by
  cases r with
  | ok c => exact .next (.reply (h.enqueue i hi ha) _)
  | error e => exact .next (h.raise e)

/-- A wire command that ended outside a handshake is available, and was enqueued with its shadow written (R123, R152). -/
theorem exec_next {i : Instr} {s t : State} (hs : s.handshake = none) (h : exec i s = .next t) :
    i.available s.params.cap = true ∧ ∃ r, encoderOf i = some r ∧ enqueueOp (s.recordAll [i]) r = .next t := by
  cases i with
  | bytesOutMsbFall _ | bitsOutMsbFall _ _ | bitsInMsbRise _ | setBitsLow _ _ | setBitsHigh _ _ | readBitsLow
  | readBitsHigh | setClkDiv _ | sendImmediate | loopbackOff | bytesOutMsbRise _ | bytesInOutMsbRiseInFallOut _
  | bytesInOutMsbFallInRiseOut _ => exact ⟨rfl, _, rfl, (whenSynced_next h).2⟩
  | disClkDiv5 | en3Phase | setDriveZero _ _ =>
    obtain ⟨hc, hb⟩ := whenCapable_next (whenSynced_next h).2
    exact ⟨hc, _, rfl, hb⟩
  | syncProbe1 | syncProbe2 =>
    have hround := (whenRound_next h).1
    rw [hs] at hround
    cases hround

theorem exec_ends {s : State} (hs : s.handshake = none) (i : Instr) : s.Ends (exec i s) := fun t h => by
  obtain ⟨ha, r, hi, ht⟩ := exec_next hs h
  exact enqueueOp_ends ((State.Advances.refl s).recordAll [i]) i hi ha t ht

theorem encodeOp_ends (s : State) (i : Instr) : s.Ends (encodeOp s i) := by
  refine .whenSynced ?_
  split
  · exact .refused _
  · refine .whenCapable ?_
    split
    · exact .next (.reply (State.Advances.refl s) _)
    · exact .next ((State.Advances.refl s).raise _)

theorem enqueueRaw_ends (s : State) (bytes : List Byte) (expected : Nat) : s.Ends (enqueueRaw s bytes expected) := by
  refine .whenSynced ?_
  split
  · exact .refused _
  · next is hd =>
    split
    · exact .refused _
    · next hprobe =>
      obtain ⟨hw, hb⟩ := decodeStream_reencodes hd
      intro t ht
      obtain ⟨ha, ht⟩ := whenCapable_next ht
      have hall : is.all (pendable s.params.cap) = true := by
        simp only [List.all_eq_true, Bool.or_eq_true, List.any_eq_true, not_or, not_exists, not_and] at ha hprobe ⊢
        intro i hi
        simp [pendable, hw i hi, ha i hi, hprobe.2 i hi]
      exact State.Ends.next (.reply (((State.Advances.refl s).recordAll is).enqueueAll hall hb) _) t ht

/-! ### The I2C operations -/

theorem sendOne_ends (s : State) (b : Byte) (op : I2cOp) : s.Ends (sendOne s b op) :=
  .next (((State.Advances.refl s).sendCore b).flush.finish fun _ _ h => .reply (h.setFsm _) _)

theorem i2cStart_ends (s : State) : s.Ends (i2cStart s) :=
  .whenSynced (.next (.reply
    (((((State.Advances.refl s).startBothHigh).dropLine _).dropLine _).setFsm _) _))

theorem i2cStop_ends (s : State) : s.Ends (i2cStop s) :=
  .whenSynced (.next (((((State.Advances.refl s).stopBothLow).raiseLine _).raiseLine _).flush.finish
    fun _ _ h => .reply ((h.setFsm _).setFsm _) _))

theorem i2cSendBytes_ends (s : State) (bytes : List Byte) : s.Ends (i2cSendBytes s bytes) :=
  .whenSynced (.next (((State.Advances.refl s).sendAll bytes).flush.finish fun _ _ h => .reply (h.setFsm _) _))

theorem i2cReceiveByte_ends (s : State) (ack : Bool) : s.Ends (i2cReceiveByte s ack) :=
  .whenSynced (.next (((State.Advances.refl s).receiveCore ack).flush.finish fun _ _ h => .reply (h.setFsm _) _))

/-! ### The SPI operations -/

theorem spiConfigure_ends (s : State) (cfg : SpiConfig) : s.Ends (spiConfigure s cfg) := by
  refine .whenSynced ?_
  split
  · exact .next ((State.Advances.refl s).raise _)
  · have hcfg : s.Advances { s with spiCfg := some cfg } := .of_same rfl rfl rfl rfl
    exact .next (.reply (((hcfg.setPin _ _).setPin _ _).emitLow 1) _)

/-- The command of a write, which needs no capability (R152, R218). -/
theorem encoderOf_spiWriteCommand (mode : SpiMode) (bytes : List Byte) :
    ∃ i, encoderOf i = some (spiWriteCommand mode bytes) ∧ ∀ cap, i.available cap = true := by
  cases mode with
  | mode0 => exact ⟨.bytesOutMsbFall bytes, rfl, fun _ => rfl⟩
  | mode2 => exact ⟨.bytesOutMsbRise bytes, rfl, fun _ => rfl⟩

/-- The command of a `readWrite`, which needs no capability (R152, R218). -/
theorem encoderOf_spiReadWriteCommand (mode : SpiMode) (bytes : List Byte) :
    ∃ i, encoderOf i = some (spiReadWriteCommand mode bytes) ∧ ∀ cap, i.available cap = true := by
  cases mode with
  | mode0 => exact ⟨.bytesInOutMsbRiseInFallOut bytes, rfl, fun _ => rfl⟩
  | mode2 => exact ⟨.bytesInOutMsbFallInRiseOut bytes, rfl, fun _ => rfl⟩

theorem spiWrite_ends (s : State) (bytes : List Byte) : s.Ends (spiWrite s bytes) := by
  refine .whenSynced (.whenConfigured fun cfg => ?_)
  obtain ⟨i, hi, ha⟩ := encoderOf_spiWriteCommand cfg.mode bytes
  split
  · exact .next ((State.Advances.refl s).raise _)
  · next cmd hcmd =>
    rw [hcmd] at hi
    exact .next (((State.Advances.refl s).spiTransfer cfg i hi (ha _)).flush.finish fun _ _ h => .reply h _)

theorem spiReadWrite_ends (s : State) (bytes : List Byte) : s.Ends (spiReadWrite s bytes) := by
  refine .whenSynced (.whenConfigured fun cfg => ?_)
  obtain ⟨i, hi, ha⟩ := encoderOf_spiReadWriteCommand cfg.mode bytes
  split
  · exact .next ((State.Advances.refl s).raise _)
  · next cmd hcmd =>
    rw [hcmd] at hi
    exact .next (((State.Advances.refl s).spiTransfer cfg i hi (ha _)).flush.finish fun _ _ h => .reply h _)

/-! ### Every request but the handshake -/

theorem perform_ends {r : Request} {s : State} (hs : s.handshake = none) (hr : r ≠ .syncHandshake) :
    s.Ends (perform r s) := by
  cases r with
  | setBit r i => exact .whenInRange (.updatePin r _)
  | unsetBit r i => exact .whenInRange (.updatePin r _)
  | toggleBit r i => exact .whenInRange (.updatePin r _)
  | isSet r i => exact .whenInRange (.next (.reply (.refl s) _))
  | mask r bits => exact pinMask_ends s r bits
  | fromByte r v => exact .updatePin r v
  | toByte r => exact .next (.reply (.refl s) _)
  | pinWrite b => exact pinWrite_ends s b
  | pinRead b => exact pinRead_ends s b
  | wire i => exact exec_ends hs i
  | encodeOnly i => exact encodeOp_ends s i
  | enqueue bytes expected => exact enqueueRaw_ends s bytes expected
  | flush => exact .whenSynced (.next ((State.Advances.refl s).flush.finish fun _ _ h => .reply h _))
  | syncHandshake => exact absurd rfl hr
  | i2cStart => exact i2cStart_ends s
  | i2cStop => exact i2cStop_ends s
  | i2cSendDeviceAddrAndCheckAck address readFlag => exact .whenSynced (sendOne_ends s _ _)
  | i2cSendByteAndCheckAck byte => exact .whenSynced (sendOne_ends s byte _)
  | i2cSendBytes bytes => exact i2cSendBytes_ends s bytes
  | i2cReceiveByte ack => exact i2cReceiveByte_ends s ack
  | spiConfigure cfg => exact spiConfigure_ends s cfg
  | spiWrite bytes => exact spiWrite_ends s bytes
  | spiReadWrite bytes => exact spiReadWrite_ends s bytes
  | bringUp c => exact .next ((s.transportBringUp_attempts c).finish fun _ _ h => .reply h _)

/-! ### The handshake -/

theorem State.probe_makesCalls (s : State) (x : Byte) : s.MakesCalls (s.probe x).2 := by
  obtain ⟨⟨_, _, _, ht⟩, _, _, _, _, hc⟩ := s.probe_calls x
  exact ⟨by rw [ht], _, hc⟩

theorem makesCalls_andThen {α β : Type} {s : State} {a : Attempt α} {k : α → State → Attempt β} (h : s.MakesCalls a.2)
    (hk : ∀ v t, s.MakesCalls t → s.MakesCalls (k v t).2) : s.MakesCalls (andThen a k).2 := by
  obtain ⟨r, t⟩ := a
  cases r with
  | ok v => exact hk v t h
  | error e => exact h

theorem repliesOnce_finish {α : Type} {s : State} {a : Attempt α} {k : α → State → State} (h : s.MakesCalls a.2)
    (hk : ∀ v t, s.MakesCalls t → s.RepliesOnce (k v t)) : s.RepliesOnce (finish a k) := by
  obtain ⟨r, t⟩ := a
  cases r with
  | ok v => exact hk v t h
  | error e => exact h.raise e

/-- The handshake replies once, after its two rounds or its first failure (R179). -/
theorem syncHandshake_repliesOnce {s t : State} (h : syncHandshake s = .next t) : s.RepliesOnce t := by
  rw [syncHandshake_eq] at h
  cases h
  have hbegin : s.MakesCalls s.beginHandshake := ⟨rfl, [], by simp [State.beginHandshake]⟩
  have hround (u : State) (hu : s.MakesCalls u) : s.MakesCalls (u.setRound .second) := ⟨hu.results, hu.calls⟩
  exact repliesOnce_finish
    (makesCalls_andThen (hbegin.trans (State.probe_makesCalls _ _))
      fun _ u hu => (hround u hu).trans (State.probe_makesCalls _ _))
    fun _ u hu => State.MakesCalls.reply (t := u.establishSync) ⟨hu.results, hu.calls⟩ .done

/-! ## The obligations -/

/-- Settles O48: the handshake makes its two rounds and replies, every other request completes (`perform_ends`). -/
theorem everyOperationRepliesOnce : Obligations.EveryOperationRepliesOnce := by
  intro r s t hs h
  by_cases hr : r = .syncHandshake
  · subst hr
    exact syncHandshake_repliesOnce h
  · exact (perform_ends hs hr t h).repliesOnce

/-- Settles O55: an operation that completes without a fatal error has only added whole commands to the end. -/
theorem outboundBytesKeepEnqueueOrder : Obligations.OutboundBytesKeepEnqueueOrder := by
  intro r s t res hs h hres hf hr
  exact (perform_ends hs hr t h).outbound hres hf

end Sys2Proof.Machine

/-! PROOFS. What a request can have done to the state when it ends (`Request.Ends`), said once for every request; the
invariant, the ownership of the registers and the return to service follow from it by induction on what was done (R22, R23,
R26, R31 to R40, R45, R56, R60, R161, R207, R248). -/

namespace Sys2Proof

/-! ## Whatever is well formed decodes from its encoding -/

/-- Decoding inverts encoding (R70 to R81): one lemma of `Laws.RoundTrip` per row of R83. -/
theorem decode_encode_append {i : Instr} (hw : i.wellFormed = true) (rest : List Byte) :
    decode (encode i ++ rest) = .ok (i, rest) :=
  match i with
  | .bytesOutMsbFall p => Laws.RoundTrip.bytesOutMsbFall p hw rest
  | .bitsOutMsbFall n data => Laws.RoundTrip.bitsOutMsbFall n data hw rest
  | .bitsInMsbRise n => Laws.RoundTrip.bitsInMsbRise n hw rest
  | .setBitsLow v d => Laws.RoundTrip.setBitsLow v d hw rest
  | .setBitsHigh v d => Laws.RoundTrip.setBitsHigh v d hw rest
  | .readBitsLow => Laws.RoundTrip.readBitsLow hw rest
  | .readBitsHigh => Laws.RoundTrip.readBitsHigh hw rest
  | .setClkDiv d => Laws.RoundTrip.setClkDiv d hw rest
  | .sendImmediate => Laws.RoundTrip.sendImmediate hw rest
  | .disClkDiv5 => Laws.RoundTrip.disClkDiv5 hw rest
  | .en3Phase => Laws.RoundTrip.en3Phase hw rest
  | .loopbackOff => Laws.RoundTrip.loopbackOff hw rest
  | .setDriveZero l h => Laws.RoundTrip.setDriveZero l h hw rest
  | .bytesOutMsbRise p => Laws.RoundTrip.bytesOutMsbRise p hw rest
  | .bytesInOutMsbRiseInFallOut p => Laws.RoundTrip.bytesInOutMsbRiseInFallOut p hw rest
  | .bytesInOutMsbFallInRiseOut p => Laws.RoundTrip.bytesInOutMsbFallInRiseOut p hw rest
  | .syncProbe1 => Laws.RoundTrip.syncProbe1 hw rest
  | .syncProbe2 => Laws.RoundTrip.syncProbe2 hw rest

theorem length_le_length_flatMap_encode (is : List Instr) : is.length ≤ (is.flatMap encode).length := by
  induction is with
  | nil => exact Nat.zero_le _
  | cons i is ih =>
    have hpos : 0 < (encode i).length := List.length_pos_iff.mpr (encode_ne_nil i)
    simp only [List.length_cons, List.flatMap_cons, List.length_append]
    omega

theorem decodeStreamFuel_flatMap_encode {is : List Instr} (hw : ∀ i ∈ is, i.wellFormed = true) {fuel : Nat}
    (hf : is.length ≤ fuel) : decodeStreamFuel fuel (is.flatMap encode) = some is := by
  induction is generalizing fuel with
  | nil => cases fuel <;> rfl
  | cons i is ih =>
    obtain ⟨n, rfl⟩ : ∃ n, fuel = n + 1 := ⟨fuel - 1, by simp at hf; omega⟩
    have hd := decode_encode_append (hw i (by simp)) (is.flatMap encode)
    have his := ih (fun j hj => hw j (by simp [hj])) (Nat.le_of_succ_le_succ hf)
    obtain ⟨b, bs, he⟩ := List.exists_cons_of_ne_nil (encode_ne_nil i)
    rw [he, List.cons_append] at hd
    simp only [List.flatMap_cons, he, List.cons_append, decodeStreamFuel, hd, his, Option.map_some]

/-- A concatenation of encodings of well-formed commands decodes to them (R56, R85). -/
theorem decodeStream_flatMap_encode {is : List Instr} (hw : ∀ i ∈ is, i.wellFormed = true) :
    decodeStream (is.flatMap encode) = some is :=
  decodeStreamFuel_flatMap_encode hw (length_le_length_flatMap_encode is)

theorem flatMap_encode_ne_nil {is : List Instr} (h : is ≠ []) : is.flatMap encode ≠ [] := by
  obtain ⟨i, is, rfl⟩ := List.exists_cons_of_ne_nil h
  simp [encode_ne_nil i]

end Sys2Proof

namespace Sys2Proof.Machine

/-! ## What a request may write -/

/-- The bank of a pin register (R20). -/
def PinReg.bank : PinReg → Bank
  | .value b => b
  | .direction b => b

/-- The requests that write bank `LOW` as the personality they belong to (R23). -/
def Request.drivesLow (r : Request) : Bool := r.i2cOp.isSome || r.isSpi

/-- R22, R23: a pin operation owns the register it names, an I2C or SPI operation the registers of bank `LOW`. -/
def Request.Owns (r : Request) (p : PinReg) : Prop :=
  r.pinReg = some p ∨ (r.drivesLow = true ∧ p.bank = .low)

theorem Request.isPinOperation_of_pinReg {r : Request} {p : PinReg} (h : r.pinReg = some p) :
    r.isPinOperation = true := by
  cases r with
  | setBit _ _ | unsetBit _ _ | toggleBit _ _ | isSet _ _ | mask _ _ | fromByte _ _ | toByte _ => rfl
  | _ => cases h

/-- A pin operation is of no personality. -/
theorem Request.drivesLow_of_pinReg {r : Request} {p : PinReg} (h : r.pinReg = some p) : r.drivesLow = false := by
  cases r with
  | setBit _ _ | unsetBit _ _ | toggleBit _ _ | isSet _ _ | mask _ _ | fromByte _ _ | toByte _ => rfl
  | _ => cases h

/-- A request that is no pin operation and of no personality owns no pin register. -/
theorem Request.not_owns_of_not_drivesLow {r : Request} (hpin : r.isPinOperation = false) (hl : r.drivesLow = false)
    (p : PinReg) : ¬ r.Owns p := by
  rintro (hp | ⟨hd, _⟩)
  · simp [isPinOperation_of_pinReg hp] at hpin
  · simp [hl] at hd

/-- Bank `HIGH` is owned by pin operations alone. -/
theorem Request.not_owns_high {r : Request} (hpin : r.isPinOperation = false) {p : PinReg} (hb : p.bank = .high) :
    ¬ r.Owns p := by
  rintro (hp | ⟨_, hlow⟩)
  · simp [isPinOperation_of_pinReg hp] at hpin
  · simp [hb] at hlow

/-- A pin operation owns no register but the one it names. -/
theorem Request.not_owns_of_ne {r : Request} {p p' : PinReg} (hp : r.pinReg = some p) (hne : p' ≠ p) : ¬ r.Owns p' := by
  rintro (hp' | ⟨hl, _⟩)
  · exact hne (Option.some.inj (hp'.symm.trans hp))
  · simp [drivesLow_of_pinReg hp] at hl

/-! ## What a request does before it ends -/

/-- The states a request `r` begun in `s` can have reached by its own rule before it replies or takes an error: every change
an operation makes, with what entitles `r` to make it. -/
inductive Request.Works (r : Request) (s : State) : State → Prop
  | refl : r.Works s s
  /-- R22, R23. -/
  | setPin {t : State} (h : r.Works s t) {p : PinReg} (hp : r.Owns p) (v : Byte) : r.Works s (t.setPin p v)
  /-- R206. -/
  | setFsm {t : State} (h : r.Works s t) {op : I2cOp} (hr : r.i2cOp = some op) : r.Works s (t.setFsm (fsmAfter op))
  /-- R123: the shadows of commands of the interface. -/
  | recordAll {t : State} (h : r.Works s t) (hr : r.isDirectEnqueue = true) {is : List Instr}
      (ha : is.all (Instr.available s.params.cap) = true) : r.Works s (t.recordAll is)
  /-- R216. -/
  | configure {t : State} (h : r.Works s t) {cfg : SpiConfig} (hr : r = .spiConfigure cfg)
      (hp : cfg.chipSelectPin ≤ 7) : r.Works s { t with spiCfg := some cfg }
  /-- R160, R246: whole commands as one fragment, in service. -/
  | enqueueAll {t : State} (h : r.Works s t) (hs : s.sync = .synced) {is : List Instr} {c : Encoded} (hne : is ≠ [])
      (ha : is.all (pendable s.params.cap) = true) (hc : c.1 = is.flatMap encode) : r.Works s (t.enqueue c)
  /-- R162, R179. -/
  | clearBuffers {t : State} (h : r.Works s t) : r.Works s t.clearBuffers
  /-- R58. -/
  | onlyCalls {t u : State} (h : r.Works s t) (hu : t.OnlyCalls u) : r.Works s u

namespace Request.Works

variable {r : Request} {s t : State}

/-- Appending what an encoder function returned (R89, R160). -/
theorem enqueue (h : r.Works s t) (hs : s.sync = .synced) {c : Encoded} (i : Instr) (hi : encoderOf i = some (.ok c))
    (ha : i.available s.params.cap = true) : r.Works s (t.enqueue c) := by
  obtain ⟨_, _, he⟩ := encoderOf_ok hi
  exact h.enqueueAll hs (is := [i]) (by simp) (by simp [pendable_of_encoderOf hi ha]) (by simp [he])

theorem enqueueEncoded (h : r.Works s t) (hs : s.sync = .synced) {res : Except OpError Encoded} (i : Instr)
    (hi : encoderOf i = some res) (ha : i.available s.params.cap = true) : r.Works s (t.enqueueEncoded res) := by
  cases res with
  | ok c => exact h.enqueue hs i hi ha
  | error e => exact h

theorem emitLow (h : r.Works s t) (hs : s.sync = .synced) (k : Nat) : r.Works s (t.emitLow k) := by
  induction k generalizing t with
  | zero => exact h
  | succ k ih => exact ih (h.enqueue hs (.setBitsLow _ _) rfl rfl)

/-- A flush clears the buffers or fails, and makes calls (R162). -/
theorem flush (h : r.Works s t) : r.Works s t.flush.2 := by
  rcases hf : t.flush with ⟨res, u⟩
  rcases State.flush_cases hf with
    ⟨hb, _, rfl⟩ | ⟨_, _, rfl⟩ | ⟨_, _, _, rfl⟩ | ⟨_, _, _, rfl⟩ | ⟨_, _, _, _, _, rfl⟩
  · exact h.clearBuffers.onlyCalls ⟨_, _, _, by rw [State.clearBuffers, ← hb]⟩
  · exact h.onlyCalls (t.onlyCalls_afterCall _)
  · exact (h.onlyCalls (t.onlyCalls_afterCall _)).clearBuffers
  · exact (h.onlyCalls (t.onlyCalls_afterCall _)).onlyCalls (State.onlyCalls_afterCall _ _)
  · exact ((h.onlyCalls (t.onlyCalls_afterCall _)).onlyCalls (State.onlyCalls_afterCall _ _)).clearBuffers

/-! ### The personalities that drive bank `LOW` -/

section Personality

variable (hs : s.sync = .synced) (hl : r.drivesLow = true)
include hl

theorem setLowV (h : r.Works s t) (v : Byte) : r.Works s (t.setLowV v) := h.setPin (.inr ⟨hl, rfl⟩) v

theorem setLowD (h : r.Works s t) (d : Byte) : r.Works s (t.setLowD d) := h.setPin (.inr ⟨hl, rfl⟩) d

include hs

theorem raiseLine (h : r.Works s t) (i : Nat) : r.Works s (t.raiseLine i) := (h.setLowV hl _).emitLow hs _

theorem dropLine (h : r.Works s t) (i : Nat) : r.Works s (t.dropLine i) := (h.setLowV hl _).emitLow hs _

theorem driveSda (h : r.Works s t) : r.Works s t.driveSda := (h.setLowD hl _).emitLow hs _

theorem releaseSda (h : r.Works s t) : r.Works s t.releaseSda := (h.setLowD hl _).emitLow hs _

theorem startBothHigh (h : r.Works s t) : r.Works s t.startBothHigh :=
  ((h.setLowD hl _).setLowV hl _).emitLow hs _

theorem stopBothLow (h : r.Works s t) : r.Works s t.stopBothLow := ((h.setLowD hl _).setLowV hl _).emitLow hs _

theorem sendCore (h : r.Works s t) (b : Byte) : r.Works s (t.sendCore b) :=
  (((h.driveSda hs hl).enqueueEncoded hs (.bytesOutMsbFall [b]) rfl rfl).releaseSda hs hl).enqueueEncoded hs
    (.bitsInMsbRise 1) rfl rfl

theorem sendAll (h : r.Works s t) (bytes : List Byte) : r.Works s (t.sendAll bytes) := by
  induction bytes generalizing t with
  | nil => exact h
  | cons b bs ih => exact ih (h.sendCore hs hl b)

theorem receiveCore (h : r.Works s t) (ack : Bool) : r.Works s (t.receiveCore ack) :=
  ((((h.enqueueEncoded hs (.bitsInMsbRise 8) rfl rfl).driveSda hs hl).enqueueEncoded hs
    (.bitsOutMsbFall 1 (ackByte ack)) rfl rfl).releaseSda hs hl).enqueue hs .sendImmediate rfl rfl

theorem assertCs (h : r.Works s t) (cfg : SpiConfig) : r.Works s (t.assertCs cfg) := by
  rw [State.assertCs]
  split
  · exact h
  · exact (h.setLowV hl _).emitLow hs _

theorem deassertCs (h : r.Works s t) (cfg : SpiConfig) : r.Works s (t.deassertCs cfg) := by
  rw [State.deassertCs]
  split
  · exact h
  · exact (h.setLowV hl _).emitLow hs _

theorem spiTransfer (h : r.Works s t) (cfg : SpiConfig) {c : Encoded} (i : Instr) (hi : encoderOf i = some (.ok c))
    (ha : i.available s.params.cap = true) : r.Works s (t.spiTransfer cfg c) :=
  ((h.assertCs hs hl cfg).enqueue hs i hi ha).deassertCs hs hl cfg

end Personality

end Request.Works

/-! ## How a request ends -/

/-- The states a request `r` begun in `s` can end in: with a reply, with a fatal error taken, or, for the handshake and its
rounds, with the block in service or the second round to send (R179, R241 to R244). -/
inductive Request.Ends (r : Request) (s : State) : State → Prop
  | reply {t : State} (h : r.Works s t) (res : OpResult) : r.Ends s (t.reply res)
  | fatal {t : State} (h : r.Works s t) {e : OpError} {f : FatalError} (hf : e.fatal = some f) : r.Ends s (t.raise e)
  | established {t : State} (h : r.Works s t) (hr : r = .syncHandshake ∨ s.handshake ≠ none) :
    r.Ends s (t.establishSync.reply .done)
  | nextRound {t : State} (h : r.Works s t) (hr : s.handshake ≠ none) : r.Ends s (t.setRound .second)

/-- An argument error is a reply that changes nothing else (R241, R242). -/
theorem Request.Works.raise {r : Request} {s t : State} (h : r.Works s t) (e : OpError) : r.Ends s (t.raise e) := by
  cases hf : e.fatal with
  | some f => exact .fatal h hf
  | none =>
    rw [State.raise_eq, hf]
    exact .reply h _

/-- An operation whose last act is a flush (R162, R165). -/
theorem Request.Works.finish_flush {r : Request} {s t : State} (h : r.Works s t) {k : List Byte → State → State}
    (hk : ∀ resp u, r.Works s u → r.Ends s (k resp u)) : r.Ends s (finish t.flush k) := by
  have hflush := h.flush
  rcases Machine.finish_flush t k with ⟨resp, u, _, hf, he⟩ | ⟨f, u, _, hf, he⟩
  · rw [he]
    rw [hf] at hflush
    exact hk resp u hflush
  · rw [he]
    rw [hf] at hflush
    exact .fatal hflush rfl

/-- An outcome that is a next state is an end of `r` begun in `s`. -/
def Request.EndsIn (r : Request) (s : State) (out : Result) : Prop := ∀ t, out = .next t → r.Ends s t

namespace Request.EndsIn

variable {r : Request} {s : State}

theorem next {t : State} (h : r.Ends s t) : r.EndsIn s (.next t) := by
  rintro _ ⟨⟩
  exact h

theorem refused (reason : Refusal) : r.EndsIn s (.refused reason) := fun _ h => nomatch h

theorem whenSynced {body : Result} (h : s.sync = .synced → r.EndsIn s body) : r.EndsIn s (whenSynced s body) :=
  fun t ht => by
    obtain ⟨hs, hb⟩ := whenSynced_next ht
    exact h hs t hb

theorem whenCapable {c : Bool} {body : Result} (h : c = true → r.EndsIn s body) : r.EndsIn s (whenCapable c body) :=
  fun t ht => by
    obtain ⟨hc, hb⟩ := whenCapable_next ht
    exact h hc t hb

theorem whenConfigured {body : SpiConfig → Result} (h : ∀ cfg, r.EndsIn s (body cfg)) :
    r.EndsIn s (whenConfigured s body) := fun t ht => by
  obtain ⟨cfg, _, hb⟩ := whenConfigured_next ht
  exact h cfg t hb

theorem whenInRange {i : Nat} {body : Result} (h : r.EndsIn s body) : r.EndsIn s (whenInRange s i body) :=
  fun t ht => by
    rcases whenInRange_next ht with rfl | hb
    · exact Works.refl.raise _
    · exact h t hb

theorem whenRound {round : Round} {body : Result} (h : s.handshake ≠ none → r.EndsIn s body) :
    r.EndsIn s (whenRound s round body) := fun t ht => by
  obtain ⟨hround, hb⟩ := whenRound_next ht
  exact h (by simp [hround]) t hb

theorem updatePin {p : PinReg} (hp : r.pinReg = some p) (v : Byte) : r.EndsIn s (updatePin s p v) :=
  .next (.reply (Works.refl.setPin (.inl hp) v) _)

end Request.EndsIn

/-! ### The pin operations and the buffer -/

section Buffer

variable {r : Request} {s : State}

theorem pinMask_endsIn {p : PinReg} (hp : r.pinReg = some p) (bits : List (Option Bool)) :
    r.EndsIn s (pinMask s p bits) := by
  rw [pinMask]
  split
  · exact .next (Request.Works.refl.raise _)
  · exact .updatePin hp _

theorem pinWrite_endsIn (b : Bank) : r.EndsIn s (pinWrite s b) := by
  refine .whenSynced fun hs => .next (.reply ?_ _)
  cases b with
  | low => exact Request.Works.refl.enqueue hs (.setBitsLow _ _) rfl rfl
  | high => exact Request.Works.refl.enqueue hs (.setBitsHigh _ _) rfl rfl

theorem pinRead_endsIn (b : Bank) : r.EndsIn s (pinRead s b) := by
  refine .whenSynced fun hs => .next ?_
  have hread : r.Works s (s.enqueue (readBitsCommand b)) := by
    cases b with
    | low => exact Request.Works.refl.enqueue hs .readBitsLow rfl rfl
    | high => exact Request.Works.refl.enqueue hs .readBitsHigh rfl rfl
  exact (hread.enqueue hs .sendImmediate rfl rfl).finish_flush fun _ _ h => .reply h _

theorem encodeOp_endsIn (i : Instr) : r.EndsIn s (encodeOp s i) := by
  refine .whenSynced fun _ => ?_
  split
  · exact .refused _
  · refine .whenCapable fun _ => ?_
    split
    · exact .next (.reply .refl _)
    · exact .next (Request.Works.refl.raise _)

theorem enqueueOp_endsIn {t : State} {res : Except OpError Encoded} (h : r.Works s t) (hs : s.sync = .synced) (i : Instr)
    (hi : encoderOf i = some res) (ha : i.available s.params.cap = true) : r.EndsIn s (enqueueOp t res) := by
  cases res with
  | ok c => exact .next (.reply (h.enqueue hs i hi ha) _)
  | error e => exact .next (h.raise e)

theorem enqueueRaw_endsIn (hr : r.isDirectEnqueue = true) (bytes : List Byte) (expected : Nat) :
    r.EndsIn s (enqueueRaw s bytes expected) := by
  refine .whenSynced fun hs => ?_
  split
  · exact .refused _
  · next is hd =>
    split
    · exact .refused _
    · next hprobe =>
      refine .whenCapable fun ha => .next (.reply ?_ _)
      obtain ⟨hw, hb⟩ := decodeStream_reencodes hd
      obtain ⟨hne, hp⟩ : is ≠ [] ∧ ∀ i ∈ is, i.isProbe = false := by simpa using hprobe
      have hall : is.all (pendable s.params.cap) = true := by
        rw [List.all_eq_true] at ha ⊢
        intro i hi
        simp [pendable, hw i hi, ha i hi, hp i hi]
      exact (Request.Works.refl.recordAll hr ha).enqueueAll hs hne hall hb

end Buffer

/-! ### The wire commands -/

/-- A command that is no probe byte and ended was in service and available, and was enqueued with its shadow written (R123,
R152, R246). -/
theorem exec_next_of_not_isProbe {i : Instr} {s t : State} (hi : i.isProbe = false) (h : exec i s = .next t) :
    s.sync = .synced ∧ i.available s.params.cap = true ∧
      ∃ res, encoderOf i = some res ∧ enqueueOp (s.recordAll [i]) res = .next t := by
  cases i with
  | bytesOutMsbFall _ | bitsOutMsbFall _ _ | bitsInMsbRise _ | setBitsLow _ _ | setBitsHigh _ _ | readBitsLow
  | readBitsHigh | setClkDiv _ | sendImmediate | loopbackOff | bytesOutMsbRise _ | bytesInOutMsbRiseInFallOut _
  | bytesInOutMsbFallInRiseOut _ =>
    obtain ⟨hs, hb⟩ := whenSynced_next h
    exact ⟨hs, rfl, _, rfl, hb⟩
  | disClkDiv5 | en3Phase | setDriveZero _ _ =>
    obtain ⟨hs, hc⟩ := whenSynced_next h
    obtain ⟨ha, hb⟩ := whenCapable_next hc
    exact ⟨hs, ha, _, rfl, hb⟩
  | syncProbe1 | syncProbe2 => cases hi

/-- A probe round makes its calls, and ends with its success or a fatal error (R177). -/
theorem Request.Works.finish_probe {r : Request} {s t : State} (h : r.Works s t) (x : Byte) {k : Unit → State → State}
    (hk : ∀ u, r.Works s u → r.Ends s (k () u)) : r.Ends s (finish (t.probe x) k) := by
  rcases Machine.finish_probe t x k with ⟨u, hu, _, he⟩ | ⟨e, f, u, hf, hu, _, he⟩
  · rw [he]
    exact hk u (h.onlyCalls hu)
  · rw [he]
    exact .fatal (h.onlyCalls hu) hf

theorem execSyncProbe1_endsIn (r : Request) (s : State) : r.EndsIn s (execSyncProbe1 s) :=
  .whenRound fun hround => .next (Request.Works.refl.finish_probe _ fun _ h => .nextRound h hround)

theorem execSyncProbe2_endsIn (r : Request) (s : State) : r.EndsIn s (execSyncProbe2 s) :=
  .whenRound fun hround => .next (Request.Works.refl.finish_probe _ fun _ h => .established h (.inr hround))

theorem exec_endsIn {r : Request} (hr : r.isDirectEnqueue = true) (s : State) (i : Instr) : r.EndsIn s (exec i s) := by
  cases hi : i.isProbe with
  | false =>
    intro t h
    obtain ⟨hs, ha, res, hres, ht⟩ := exec_next_of_not_isProbe hi h
    have hrecord : r.Works s (s.recordAll [i]) := Request.Works.refl.recordAll hr (by simp [ha])
    exact enqueueOp_endsIn hrecord hs i hres ha t ht
  | true =>
    cases i with
    | syncProbe1 => exact execSyncProbe1_endsIn r s
    | syncProbe2 => exact execSyncProbe2_endsIn r s
    | _ => cases hi

theorem syncHandshake_endsIn (s : State) : Request.syncHandshake.EndsIn s (syncHandshake s) := by
  rcases syncHandshake_cases s with ⟨t, ht, he⟩ | ⟨e, f, t, hf, ht, he⟩
  · rw [he]
    exact .next (.established (Request.Works.refl.clearBuffers.onlyCalls ht) (.inl rfl))
  · rw [he]
    exact .next (.fatal (Request.Works.refl.clearBuffers.onlyCalls ht) hf)

/-! ### The I2C operations -/

section I2c

variable {r : Request} {s : State}

theorem drivesLow_of_i2cOp {op : I2cOp} (hr : r.i2cOp = some op) : r.drivesLow = true := by
  simp [Request.drivesLow, hr]

theorem sendOne_endsIn {op : I2cOp} (hr : r.i2cOp = some op) (hs : s.sync = .synced) (b : Byte) :
    r.EndsIn s (sendOne s b op) :=
  .next ((Request.Works.refl.sendCore hs (drivesLow_of_i2cOp hr) b).finish_flush fun _ _ h => .reply (h.setFsm hr) _)

theorem i2cStart_endsIn (hr : r.i2cOp = some .start) : r.EndsIn s (i2cStart s) :=
  .whenSynced fun hs =>
    have hl := drivesLow_of_i2cOp hr
    .next (.reply ((((Request.Works.refl.startBothHigh hs hl).dropLine hs hl _).dropLine hs hl _).setFsm hr) _)

/-- `Stop` passes through `Stopped` and leaves `Idle` (R207). -/
theorem i2cStop_endsIn (hr : r.i2cOp = some .stop) : r.EndsIn s (i2cStop s) :=
  .whenSynced fun hs =>
    have hl := drivesLow_of_i2cOp hr
    .next ((((Request.Works.refl.stopBothLow hs hl).raiseLine hs hl _).raiseLine hs hl _).finish_flush
      fun _ _ h => .reply (h.setFsm hr) _)

theorem i2cSendBytes_endsIn (hr : r.i2cOp = some .data) (bytes : List Byte) : r.EndsIn s (i2cSendBytes s bytes) :=
  .whenSynced fun hs =>
    .next ((Request.Works.refl.sendAll hs (drivesLow_of_i2cOp hr) bytes).finish_flush
      fun _ _ h => .reply (h.setFsm hr) _)

theorem i2cReceiveByte_endsIn (hr : r.i2cOp = some .data) (ack : Bool) : r.EndsIn s (i2cReceiveByte s ack) :=
  .whenSynced fun hs =>
    .next ((Request.Works.refl.receiveCore hs (drivesLow_of_i2cOp hr) ack).finish_flush
      fun _ _ h => .reply (h.setFsm hr) _)

end I2c

/-! ### The SPI operations -/

section Spi

variable {r : Request} {s : State}

theorem spiConfigure_endsIn (cfg : SpiConfig) :
    (Request.spiConfigure cfg).EndsIn s (spiConfigure s cfg) := by
  refine .whenSynced fun hs => ?_
  split
  · exact .next (Request.Works.refl.raise _)
  · next hp =>
    have hcfg := Request.Works.refl (s := s).configure rfl (Nat.le_of_not_gt hp)
    exact .next (.reply (((hcfg.setLowD rfl _).setLowV rfl _).emitLow hs 1) _)

theorem spiWrite_endsIn (hl : r.drivesLow = true) (bytes : List Byte) : r.EndsIn s (spiWrite s bytes) := by
  refine .whenSynced fun hs => .whenConfigured fun cfg => ?_
  obtain ⟨i, hi, ha⟩ := encoderOf_spiWriteCommand cfg.mode bytes
  split
  · exact .next (Request.Works.refl.raise _)
  · next cmd hcmd =>
    rw [hcmd] at hi
    exact .next ((Request.Works.refl.spiTransfer hs hl cfg i hi (ha _)).finish_flush fun _ _ h => .reply h _)

theorem spiReadWrite_endsIn (hl : r.drivesLow = true) (bytes : List Byte) : r.EndsIn s (spiReadWrite s bytes) := by
  refine .whenSynced fun hs => .whenConfigured fun cfg => ?_
  obtain ⟨i, hi, ha⟩ := encoderOf_spiReadWriteCommand cfg.mode bytes
  split
  · exact .next (Request.Works.refl.raise _)
  · next cmd hcmd =>
    rw [hcmd] at hi
    exact .next ((Request.Works.refl.spiTransfer hs hl cfg i hi (ha _)).finish_flush fun _ _ h => .reply h _)

end Spi

/-- A bring-up call makes one call (R262). -/
theorem bringUpOp_endsIn (r : Request) (s : State) (c : BringUpCall) : r.EndsIn s (bringUpOp s c) := by
  have hcall : r.Works s (s.afterCall (.bringUp c)) := Request.Works.refl.onlyCalls (s.onlyCalls_afterCall _)
  rw [bringUpOp, State.transportBringUp]
  split
  · exact .next (.reply hcall _)
  · exact .next (hcall.raise (.transportError (.bringUp c)))

/-! ### Every request -/

/-- What every request can have done when it ends. -/
theorem perform_endsIn (r : Request) (s : State) : r.EndsIn s (perform r s) := by
  cases r with
  | setBit p i => exact .whenInRange (.updatePin rfl _)
  | unsetBit p i => exact .whenInRange (.updatePin rfl _)
  | toggleBit p i => exact .whenInRange (.updatePin rfl _)
  | isSet p i => exact .whenInRange (.next (.reply .refl _))
  | mask p bits => exact pinMask_endsIn rfl bits
  | fromByte p v => exact .updatePin rfl v
  | toByte p => exact .next (.reply .refl _)
  | pinWrite b => exact pinWrite_endsIn b
  | pinRead b => exact pinRead_endsIn b
  | wire i => exact exec_endsIn rfl s i
  | encodeOnly i => exact encodeOp_endsIn i
  | enqueue bytes expected => exact enqueueRaw_endsIn rfl bytes expected
  | flush => exact .whenSynced fun _ => .next (Request.Works.refl.finish_flush fun _ _ h => .reply h _)
  | syncHandshake => exact syncHandshake_endsIn s
  | i2cStart => exact i2cStart_endsIn rfl
  | i2cStop => exact i2cStop_endsIn rfl
  | i2cSendDeviceAddrAndCheckAck address readFlag => exact .whenSynced fun hs => sendOne_endsIn rfl hs _
  | i2cSendByteAndCheckAck byte => exact .whenSynced fun hs => sendOne_endsIn rfl hs byte
  | i2cSendBytes bytes => exact i2cSendBytes_endsIn rfl bytes
  | i2cReceiveByte ack => exact i2cReceiveByte_endsIn rfl ack
  | spiConfigure cfg => exact spiConfigure_endsIn cfg
  | spiWrite bytes => exact spiWrite_endsIn rfl bytes
  | spiReadWrite bytes => exact spiReadWrite_endsIn rfl bytes
  | bringUp c => exact bringUpOp_endsIn _ s c

/-! ## What no operation does before it ends -/

/-- What every change of an operation before its end leaves as it was: only the end itself writes `SYNC`, `FAULT`, the round
of a handshake and the results. -/
structure State.Keeps (s t : State) : Prop where
  params : t.params = s.params
  sync : t.sync = s.sync
  fault : t.fault = s.fault
  lock : t.lock = s.lock
  handshake : t.handshake = s.handshake
  requests : t.requests = s.requests
  results : t.results = s.results

theorem State.pin_eq_of_banks {s t : State} (hl : t.low = s.low) (hh : t.high = s.high) (p : PinReg) :
    t.pin p = s.pin p := by
  rcases p with b | b <;> cases b <;> simp [State.pin, hl, hh]

theorem RegisterPair.eq_of_fields {a b : RegisterPair} (hv : a.value = b.value) (hd : a.direction = b.direction) :
    a = b := by
  cases a
  cases b
  cases hv
  cases hd
  rfl

namespace Request.Works

variable {r : Request} {s t : State}

theorem keeps (h : r.Works s t) : s.Keeps t := by
  induction h with
  | refl => exact ⟨rfl, rfl, rfl, rfl, rfl, rfl, rfl⟩
  | @setPin t _ p _ v ih =>
    obtain ⟨_, _, he⟩ := t.setPin_frame p v
    rw [he]
    exact { ih with }
  | setFsm _ _ ih | recordAll _ _ _ ih | configure _ _ _ ih | enqueueAll _ _ _ _ _ ih | clearBuffers _ ih =>
    exact { ih with }
  | onlyCalls _ hu ih =>
    obtain ⟨_, _, _, rfl⟩ := hu
    exact { ih with }

/-- A register that `r` does not own is as it was (R22, R23). -/
theorem pin_eq (h : r.Works s t) {p : PinReg} (hp : ¬ r.Owns p) : t.pin p = s.pin p := by
  induction h with
  | refl => rfl
  | @setPin t _ q hq v ih =>
    have hne : p ≠ q := fun he => hp (he ▸ hq)
    rw [State.pin_setPin, if_neg hne, ih]
  | setFsm _ _ ih | recordAll _ _ _ ih | configure _ _ _ ih | enqueueAll _ _ _ _ _ ih | clearBuffers _ ih =>
    exact (State.pin_eq_of_banks rfl rfl p).trans ih
  | onlyCalls _ hu ih =>
    obtain ⟨_, _, _, rfl⟩ := hu
    exact (State.pin_eq_of_banks rfl rfl p).trans ih

/-- `SPI_CFG` is written by `SpiConfigure` alone (R39). -/
theorem spiCfg_eq (h : r.Works s t) (hr : ∀ cfg, r ≠ .spiConfigure cfg) : t.spiCfg = s.spiCfg := by
  induction h with
  | refl => rfl
  | setPin _ _ _ ih => rw [State.setPin_spiCfg, ih]
  | configure _ hcfg _ _ => exact absurd hcfg (hr _)
  | setFsm _ _ ih | recordAll _ _ _ ih | enqueueAll _ _ _ _ _ ih | clearBuffers _ ih => exact ih
  | onlyCalls _ hu ih =>
    obtain ⟨_, _, _, rfl⟩ := hu
    exact ih

/-- The shadows are written by the enqueue of a command alone (R123). -/
theorem cfg_eq (h : r.Works s t) (hr : r.isDirectEnqueue = false) : t.cfg = s.cfg := by
  induction h with
  | refl => rfl
  | setPin _ _ _ ih => rw [State.setPin_cfg, ih]
  | recordAll _ hd _ _ => simp [hr] at hd
  | setFsm _ _ ih | configure _ _ _ ih | enqueueAll _ _ _ _ _ ih | clearBuffers _ ih => exact ih
  | onlyCalls _ hu ih =>
    obtain ⟨_, _, _, rfl⟩ := hu
    exact ih

end Request.Works

/-! ## What no end of an operation does -/

namespace Request.Ends

variable {r : Request} {s t : State}

theorem pin_eq (h : r.Ends s t) {p : PinReg} (hp : ¬ r.Owns p) : t.pin p = s.pin p := by
  cases h with
  | reply h _ | established h _ | nextRound h _ => exact (State.pin_eq_of_banks rfl rfl p).trans (h.pin_eq hp)
  | fatal h hf => exact (State.pin_eq_of_banks (State.raise_low _ _) (State.raise_high _ _) p).trans (h.pin_eq hp)

theorem params_eq (h : r.Ends s t) : t.params = s.params := by
  cases h with
  | reply h _ | established h _ | nextRound h _ => exact h.keeps.params
  | fatal h _ => rw [State.raise_params, h.keeps.params]

theorem spiCfg_eq (h : r.Ends s t) (hr : ∀ cfg, r ≠ .spiConfigure cfg) : t.spiCfg = s.spiCfg := by
  cases h with
  | reply h _ | established h _ | nextRound h _ => exact h.spiCfg_eq hr
  | fatal h _ => rw [State.raise_spiCfg, h.spiCfg_eq hr]

/-- Without a fatal error the shadows are as they were, but for the enqueue of a command (R123, R243, R244). -/
theorem cfg_eq (h : r.Ends s t) {res : OpResult} (hres : t.results = s.results ++ [res]) (hf : res.isFatal = false)
    (hr : r.isDirectEnqueue = false) : t.cfg = s.cfg := by
  cases h with
  | reply h _ | established h _ | nextRound h _ => exact h.cfg_eq hr
  | fatal h he =>
    rw [State.raise_results, h.keeps.results, List.append_cancel_left_eq, List.singleton_inj] at hres
    rw [← hres, OpResult.isFatal, he] at hf
    cases hf

/-- Between handshakes an end keeps `SYNC` and `FAULT`, or takes a fatal error, or is a handshake that succeeded (R31,
R32). -/
theorem service_cases (h : r.Ends s t) (hs : s.handshake = none) :
    (t.sync = s.sync ∧ t.fault = s.fault) ∨ (t.sync = .unsynced ∧ t.fault ≠ none) ∨
      (r = .syncHandshake ∧ t.sync = .synced) := by
  cases h with
  | reply h _ => exact .inl ⟨h.keeps.sync, h.keeps.fault⟩
  | fatal h hf =>
    rw [State.raise_fatal hf]
    exact .inr (.inl ⟨rfl, nofun⟩)
  | established h hr => exact .inr (.inr ⟨hr.resolve_right (· hs), rfl⟩)
  | nextRound h hr => exact absurd hs hr

end Request.Ends

/-! ## The invariant -/

/-- The invariant of the block but for the lock, which an operation holds (R60). -/
def State.Sound (s : State) : Prop := Inv { s with lock := .free }

/-- With capabilities `cap` the shadow registers move one way, and only with their capability (R35 to R38). -/
structure Shadow.Sound (cap : Capabilities) (c : Shadow) : Prop where
  one_way : c.div5 ≠ some true ∧ c.phase3 ≠ some false ∧ c.loopback ≠ some true
  gated : (cap.hasClockDivideBy5 = false → c.div5 = none) ∧ (cap.hasThreePhaseClocking = false → c.phase3 = none) ∧
    (cap.hasDriveOn0TristateOn1 = false → c.drive0 = none)

theorem Shadow.Sound.unknown (cap : Capabilities) : Shadow.unknown.Sound cap :=
  ⟨⟨nofun, nofun, nofun⟩, fun _ => rfl, fun _ => rfl, fun _ => rfl⟩

theorem Shadow.Sound.record {cap : Capabilities} {c : Shadow} (h : c.Sound cap) {i : Instr}
    (ha : i.available cap = true) : (c.record i).Sound cap := by
  obtain ⟨⟨hd, hp, hl⟩, gd, gp, g0⟩ := h
  cases i with
  | disClkDiv5 => exact ⟨⟨nofun, hp, hl⟩, fun hc => absurd (ha.symm.trans hc) nofun, gp, g0⟩
  | en3Phase => exact ⟨⟨hd, nofun, hl⟩, gd, fun hc => absurd (ha.symm.trans hc) nofun, g0⟩
  | loopbackOff => exact ⟨⟨hd, hp, nofun⟩, gd, gp, g0⟩
  | setDriveZero _ _ => exact ⟨⟨hd, hp, hl⟩, gd, gp, fun hc => absurd (ha.symm.trans hc) nofun⟩
  | _ => exact ⟨⟨hd, hp, hl⟩, gd, gp, g0⟩

theorem Shadow.Sound.recordAll {cap : Capabilities} {c : Shadow} (h : c.Sound cap) {is : List Instr}
    (ha : is.all (Instr.available cap) = true) : (is.foldl Shadow.record c).Sound cap := by
  induction is generalizing c with
  | nil => exact h
  | cons i is ih =>
    obtain ⟨hi, his⟩ : i.available cap = true ∧ is.all (Instr.available cap) = true := by simpa using ha
    exact ih (h.record hi) his

/-- Whole commands after whole commands are whole commands (R56). -/
theorem wholeCommands_append {cap : Capabilities} {bs : List Byte} {is : List Instr}
    (h : ∃ js, decodeStream bs = some js ∧ js.all (pendable cap) = true) (ha : is.all (pendable cap) = true) :
    ∃ js, decodeStream (bs ++ is.flatMap encode) = some js ∧ js.all (pendable cap) = true := by
  obtain ⟨js, hd, hjs⟩ := h
  obtain ⟨hw, rfl⟩ := decodeStream_reencodes hd
  have hall : (js ++ is).all (pendable cap) = true := by simp [hjs, ha]
  refine ⟨js ++ is, ?_, hall⟩
  rw [← List.flatMap_append]
  refine decodeStream_flatMap_encode fun i hi => ?_
  have hi := List.all_eq_true.mp hall i hi
  simp only [pendable, Bool.and_eq_true] at hi
  exact hi.1.1

theorem fsmAfter_ne_stopped (op : I2cOp) : fsmAfter op ≠ .stopped := by cases op <;> nofun

namespace State.Sound

variable {s t : State}

/-- Nothing pending is whole, together and legal out of service (R26, R56, R246). -/
theorem clearBuffers (h : s.Sound) : s.clearBuffers.Sound :=
  { h with
    unsynced_empty := fun _ => rfl
    buffers_together := ⟨fun _ => rfl, fun _ => rfl⟩
    whole_commands := ⟨[], rfl, rfl⟩ }

/-- Every change an operation makes before its end keeps the invariant. -/
theorem works {r : Request} (hw : r.Works s t) (h : s.Sound) : t.Sound := by
  induction hw with
  | refl => exact h
  | @setPin t _ p _ v ih =>
    obtain ⟨_, _, he⟩ := t.setPin_frame p v
    rw [he]
    exact { ih with }
  | setFsm _ _ ih => exact { ih with never_stopped := fsmAfter_ne_stopped _ }
  | @recordAll t hw _ is ha ih =>
    rw [← hw.keeps.params] at ha
    obtain ⟨hone, hgated⟩ := Shadow.Sound.recordAll ⟨ih.shadows_one_way, ih.shadows_gated⟩ ha
    exact { ih with shadows_one_way := hone, shadows_gated := hgated }
  | configure _ _ hp ih =>
    refine { ih with spi_pin_in_range := ?_ }
    rintro _ ⟨⟩
    exact hp
  | @enqueueAll t hw hs is c hne ha hc ih =>
    rw [← hw.keeps.params] at ha
    have hbytes : t.txbuf ++ c.1 ≠ [] := by simp [hc, flatMap_encode_ne_nil hne]
    have hlens : t.rxexp ++ [c.2] ≠ [] := by simp
    have hwhole : ∃ js, decodeStream (t.txbuf ++ c.1) = some js ∧ js.all (pendable t.params.cap) = true := by
      rw [hc]
      exact wholeCommands_append ih.whole_commands ha
    exact
      { ih with
        unsynced_empty := fun hu => absurd ((hw.keeps.sync.trans hs).symm.trans hu) nofun
        buffers_together := iff_of_false hbytes hlens
        whole_commands := hwhole }
  | clearBuffers _ ih => exact ih.clearBuffers
  | onlyCalls _ hu ih =>
    obtain ⟨_, _, _, rfl⟩ := hu
    exact { ih with }

/-- The fatal state meets the invariant (R243, R244). -/
theorem enterFatal (h : s.Sound) (f : FatalError) : (s.enterFatal f).Sound :=
  { h.clearBuffers with
    no_handshake := rfl
    synced_no_fault := nofun
    unsynced_empty := fun _ => rfl
    never_stopped := nofun
    shadows_one_way := (Shadow.Sound.unknown s.params.cap).one_way
    shadows_gated := (Shadow.Sound.unknown s.params.cap).gated }

theorem reply (h : s.Sound) (res : OpResult) : (s.reply res).Sound := { h with }

theorem establishSync (h : s.Sound) : s.establishSync.Sound :=
  { h with
    no_handshake := rfl
    synced_no_fault := fun _ => rfl
    unsynced_empty := nofun }

theorem ends {r : Request} (he : r.Ends s t) (h : s.Sound) : t.Sound := by
  cases he with
  | reply hw res => exact (h.works hw).reply res
  | fatal hw hf =>
    rw [State.raise_fatal hf]
    exact ((h.works hw).enterFatal _).reply _
  | established hw _ => exact (h.works hw).establishSync.reply _
  | nextRound _ hr => exact absurd h.no_handshake hr

end State.Sound

/-- A step that ended was idle, or released the lock at the end of the request it had taken off the port (R60). -/
theorem step_next {s t : State} (h : step s = .next t) :
    t = s ∨ ∃ r waiting u, perform r (s.accept waiting) = .next u ∧ t = { u with lock := .free } := by
  rw [step, serve] at h
  split at h
  · cases h
  · split at h
    · cases h
      exact .inl rfl
    · next r waiting _ =>
      cases hp : perform r (s.accept waiting) with
      | next u =>
        rw [hp] at h
        cases h
        exact .inr ⟨r, waiting, u, hp, rfl⟩
      | fault f => rw [hp] at h; cases h
      | refused f => rw [hp] at h; cases h

/-! ## SpiConfigure -/

/-- `SpiConfigure` writes the record it is given, unless its pin is out of range (R216). -/
theorem spiConfigure_spiCfg {s t : State} {cfg : SpiConfig} (h : spiConfigure s cfg = .next t) :
    t.spiCfg = if cfg.chipSelectPin ≤ 7 then some cfg else s.spiCfg := by
  obtain ⟨_, h⟩ := whenSynced_next h
  split at h
  · next hp =>
    cases h
    rw [if_neg (Nat.not_le_of_gt hp), State.raise_spiCfg]
  · next hp =>
    cases h
    rw [if_pos (Nat.le_of_not_gt hp), State.emitLow_eq]
    rfl

/-! ## The obligations -/

/-- Settles O47: a step is idle, or an end of a request (`State.Sound.ends`) after which the lock is released. -/
theorem everyStepKeepsTheInvariant : Obligations.EveryStepKeepsTheInvariant := by
  intro s t hinv h
  rcases step_next h with rfl | ⟨r, waiting, u, hp, rfl⟩
  · exact hinv
  · have haccept : (s.accept waiting).Sound := { hinv with lock_free := rfl }
    exact haccept.ends (perform_endsIn r _ u hp)

/-- Settles O53: a register that the request does not own is as it was (`Request.Ends.pin_eq`). -/
theorem pinRegistersAreWrittenOnlyByTheirOwners : Obligations.PinRegistersAreWrittenOnlyByTheirOwners := by
  intro r s t h
  have hends := perform_endsIn r s t h
  refine ⟨fun hpin hi2c hspi => ?_, fun hpin => ?_, fun p p' hp hne => hends.pin_eq (Request.not_owns_of_ne hp hne)⟩
  · have hl : r.drivesLow = false := by simp [Request.drivesLow, hi2c, hspi]
    have hkept (p : PinReg) : t.pin p = s.pin p := hends.pin_eq (Request.not_owns_of_not_drivesLow hpin hl p)
    exact RegisterPair.eq_of_fields (hkept (.value .low)) (hkept (.direction .low))
  · have hkept (p : PinReg) (hb : p.bank = .high) : t.pin p = s.pin p := hends.pin_eq (Request.not_owns_high hpin hb)
    exact RegisterPair.eq_of_fields (hkept (.value .high) rfl) (hkept (.direction .high) rfl)

/-- Settles O54: `SpiConfigure` writes the record (`spiConfigure_spiCfg`), the enqueue of a command the shadows, and nothing
else does (`Request.Ends.spiCfg_eq`, `Request.Ends.cfg_eq`). -/
theorem configurationIsWrittenOnlyByItsCommands : Obligations.ConfigurationIsWrittenOnlyByItsCommands := by
  refine ⟨fun r s t h => ?_, fun r s t res h hres hf hr => (perform_endsIn r s t h).cfg_eq hres hf hr⟩
  have hends := perform_endsIn r s t h
  have hother (hr : ∀ cfg, r ≠ .spiConfigure cfg) : t.spiCfg = s.spiCfg := hends.spiCfg_eq hr
  have hconf (cfg : SpiConfig) (hr : r = .spiConfigure cfg) :
      t.spiCfg = if cfg.chipSelectPin ≤ 7 then some cfg else s.spiCfg := by
    subst hr
    exact spiConfigure_spiCfg h
  refine ⟨hends.params_eq, hother, hconf, ?_, ?_⟩
  · intro hsome
    by_cases hr : ∃ cfg, r = .spiConfigure cfg
    · obtain ⟨cfg, hr⟩ := hr
      rw [hconf cfg hr]
      split
      · nofun
      · exact hsome
    · rw [hother (not_exists.mp hr)]
      exact hsome
  · intro honce cfg hcfg
    by_cases hr : ∃ cfg, r = .spiConfigure cfg
    · obtain ⟨cfg', rfl⟩ := hr
      obtain rfl : cfg = cfg' := by simpa [Request.configuresOnce, hcfg] using honce
      rw [hconf cfg rfl, hcfg, ite_self]
    · rw [hother (not_exists.mp hr), hcfg]

/-- Settles O58: of the three things an end can do to `SYNC` and `FAULT` only the success of a handshake restores them. -/
theorem serviceReturnsOnlyThroughTheHandshake : Obligations.ServiceReturnsOnlyThroughTheHandshake := by
  intro r s t hs h
  rcases (perform_endsIn r s t h).service_cases hs with ⟨hsync, hfault⟩ | ⟨hsync, hfault⟩ | ⟨hr, hsync⟩
  · exact ⟨fun hu ht => absurd (hu.symm.trans (hsync.symm.trans ht)) nofun,
      fun hlatched ht => absurd (hfault.symm.trans ht) hlatched⟩
  · exact ⟨fun _ ht => absurd (hsync.symm.trans ht) nofun, fun _ ht => absurd ht hfault⟩
  · exact ⟨fun _ _ => hr, fun _ _ => ⟨hr, hsync⟩⟩

/-- Settles O45: the constructed state is the reset table, field by field (R45). -/
theorem constructionLeavesTheResetTable : Obligations.ConstructionLeavesTheResetTable := fun _ =>
  ⟨rfl, rfl, rfl, rfl, rfl, rfl, rfl, rfl, rfl, rfl, rfl, rfl, rfl, rfl, rfl⟩

/-- Settles O46: nothing is pending, latched, shadowed or configured after construction (R45). -/
theorem constructedInstanceMeetsTheInvariant : Obligations.ConstructedInstanceMeetsTheInvariant := fun p _ _ =>
  { lock_free := rfl
    no_handshake := rfl
    synced_no_fault := nofun
    unsynced_empty := fun _ => rfl
    never_stopped := nofun
    buffers_together := ⟨fun _ => rfl, fun _ => rfl⟩
    whole_commands := ⟨[], rfl, rfl⟩
    spi_pin_in_range := nofun
    shadows_one_way := (Shadow.Sound.unknown p.cap).one_way
    shadows_gated := (Shadow.Sound.unknown p.cap).gated }

end Sys2Proof.Machine

/-! PROOFS. One step is one request under the lock (R7, R60, R61); a stream of whole commands is their encodings joined
(R56, R85); every request of the interface returns (R58), with a bounded number of transport calls (R52, R282). -/

namespace Sys2Proof

/-- Settles O4: `decodeStream_reencodes` one way, `decodeStream_flatMap_encode` the other. -/
theorem streamsOfWholeCommandsDecode : Obligations.StreamsOfWholeCommandsDecode := by
  intro bs is
  constructor
  · intro h
    obtain ⟨hw, hb⟩ := decodeStream_reencodes h
    exact ⟨List.all_eq_true.mpr hw, hb⟩
  · rintro ⟨hw, rfl⟩
    exact decodeStream_flatMap_encode (List.all_eq_true.mp hw)

end Sys2Proof

namespace Sys2Proof.Machine

/-! ## One step (R60) -/

/-- With the lock free a step is the first request, performed with the lock held, and the release of the lock. -/
theorem step_of_request {s : State} {r : Request} {waiting : List Request} (hl : s.lock = .free)
    (hr : s.requests = r :: waiting) : step s = release (perform r (s.accept waiting)) := by
  simp only [step, serve, hl, hr]

/-- With no request a step does nothing (R7). -/
theorem step_of_no_request {s : State} (hl : s.lock = .free) (hr : s.requests = []) : step s = .next s := by
  simp only [step, serve, hl, hr]

/-- With the lock held a request waits. -/
theorem step_of_held {s : State} (hl : s.lock = .held) : step s = .fault .lockHeld := by
  simp only [step, serve, hl]

/-- A step that ended began with the lock free. -/
theorem lock_free_of_step {s t : State} (h : step s = .next t) : s.lock = .free := by
  cases hl : s.lock with
  | free => rfl
  | held =>
    rw [step_of_held hl] at h
    cases h

/-- An end of an operation keeps the lock and the requests still waiting (R60). -/
theorem Request.Ends.lock_requests {r : Request} {s t : State} (h : r.Ends s t) :
    t.lock = s.lock ∧ t.requests = s.requests := by
  cases h with
  | reply h _ | established h _ | nextRound h _ => exact ⟨h.keeps.lock, h.keeps.requests⟩
  | fatal h _ => exact ⟨(State.raise_lock _ _).trans h.keeps.lock, (State.raise_requests _ _).trans h.keeps.requests⟩

/-- The word of a probe byte is run in its round of a handshake (log entry 2). -/
theorem step_withFetchWord_of_round {s : State} {nbits w : Nat} {i : Instr} {r : Round}
    (hi : decodeTableWord nbits w = some i) (hr : roundOf i = some r) :
    step (s.withFetchWord nbits w) = release (exec i { s with lock := .held, handshake := some r }) := by
  simp only [State.withFetchWord, State.presentWord, hi, hr]
  rw [step_of_request rfl rfl]
  rfl

/-- The word of any other command is run from a block in service (log entry 2). -/
theorem step_withFetchWord_of_no_round {s : State} {nbits w : Nat} {i : Instr} (hi : decodeTableWord nbits w = some i)
    (hr : roundOf i = none) :
    step (s.withFetchWord nbits w) = release (exec i { s with lock := .held, sync := .synced, fault := none }) := by
  simp only [State.withFetchWord, State.presentWord, hi, hr]
  rw [step_of_request rfl rfl]
  rfl

/-- Settles O43: `step_of_request`, and for a word of the opcode table the start `withFetchWord` gives it, by whether it is
a probe byte. -/
theorem stepRunsTheDecodedCommand : Obligations.StepRunsTheDecodedCommand := by
  refine ⟨fun s r waiting hl hr => step_of_request hl hr, fun s i => rfl, fun s nbits w i hi => ?_⟩
  cases i with
  | syncProbe1 | syncProbe2 => exact step_withFetchWord_of_round hi rfl
  | _ => exact step_withFetchWord_of_no_round hi rfl

/-- Settles O44: the end of an operation keeps the lock (`Request.Ends.lock_requests`), the end of a step releases it. -/
theorem lockIsHeldOverAnOperation : Obligations.LockIsHeldOverAnOperation := by
  refine ⟨fun r s t h => (perform_endsIn r s t h).lock_requests, fun s t h => ?_, fun s => step_of_no_request,
    fun s => step_of_held⟩
  rcases step_next h with rfl | ⟨_, _, _, _, rfl⟩
  · exact lock_free_of_step h
  · rfl

/-! ## Every request of the interface returns (R58) -/

/-- The operation returns, with a result or an error. -/
def Returns (out : Result) : Prop := ∃ t, out = .next t

namespace Returns

theorem next (t : State) : Returns (.next t) := ⟨t, rfl⟩

variable {s : State}

theorem whenSynced {body : Result} (hs : s.sync = .synced) (h : Returns body) : Returns (whenSynced s body) := by
  rwa [whenSynced_synced hs]

theorem whenCapable {c : Bool} {body : Result} (hc : c = true) (h : Returns body) : Returns (whenCapable c body) := by
  rwa [Machine.whenCapable, if_pos hc]

theorem whenConfigured {body : SpiConfig → Result} (hc : s.spiCfg.isSome = true) (h : ∀ cfg, Returns (body cfg)) :
    Returns (whenConfigured s body) := by
  obtain ⟨cfg, hcfg⟩ := Option.isSome_iff_exists.mp hc
  rw [whenConfigured_some hcfg]
  exact h cfg

theorem whenInRange {i : Nat} {body : Result} (h : Returns body) : Returns (whenInRange s i body) := by
  rw [Machine.whenInRange]
  split
  · exact .next _
  · exact h

theorem enqueueOp (t : State) (res : Except OpError Encoded) : Returns (enqueueOp t res) := by
  cases res with
  | ok c => exact .next _
  | error e => exact .next _

end Returns

/-- Every command but a probe byte has its encoder function (R89). -/
theorem exists_encoderOf {i : Instr} (hi : i.isProbe = false) : ∃ res, encoderOf i = some res := by
  cases i with
  | syncProbe1 | syncProbe2 => cases hi
  | _ => exact ⟨_, rfl⟩

/-- An available command in service is enqueued with its shadow written (R123, R152). -/
theorem exec_eq_enqueueOp {i : Instr} {s : State} {res : Except OpError Encoded} (hs : s.sync = .synced)
    (ha : i.available s.params.cap = true) (hi : encoderOf i = some res) :
    exec i s = enqueueOp (s.recordAll [i]) res := by
  cases i with
  | disClkDiv5 | en3Phase | setDriveZero _ _ =>
    cases hi
    exact (whenSynced_synced hs _).trans (if_pos ha)
  | syncProbe1 | syncProbe2 => cases hi
  | _ =>
    cases hi
    exact whenSynced_synced hs _

section Formed

variable {s : State}

theorem exec_returns {i : Instr} (hs : s.sync = .synced) (hf : (Request.wire i).formed s = true) :
    Returns (exec i s) := by
  obtain ⟨hi, ha⟩ : i.isProbe = false ∧ i.available s.params.cap = true := by simpa [Request.formed] using hf
  obtain ⟨res, hres⟩ := exists_encoderOf hi
  rw [exec_eq_enqueueOp hs ha hres]
  exact .enqueueOp _ res

theorem encodeOp_returns {i : Instr} (hs : s.sync = .synced) (hf : (Request.encodeOnly i).formed s = true) :
    Returns (encodeOp s i) := by
  obtain ⟨hi, ha⟩ : i.isProbe = false ∧ i.available s.params.cap = true := by simpa [Request.formed] using hf
  obtain ⟨res, hres⟩ := exists_encoderOf hi
  rw [encodeOp, hres]
  refine .whenSynced hs (.whenCapable ha ?_)
  cases res with
  | ok c => exact .next _
  | error e => exact .next _

theorem enqueueRaw_returns {bytes : List Byte} {expected : Nat} (hs : s.sync = .synced)
    (hf : (Request.enqueue bytes expected).formed s = true) : Returns (enqueueRaw s bytes expected) := by
  cases hd : decodeStream bytes with
  | none => simp [Request.formed, hd] at hf
  | some is =>
    obtain ⟨hne, hall⟩ : is ≠ [] ∧ ∀ i ∈ is, i.isProbe = false ∧ i.available s.params.cap = true := by
      simpa [Request.formed, hd] using hf
    have hok : ¬ (is.isEmpty || is.any Instr.isProbe) = true := by simpa [hne] using fun i hi => (hall i hi).1
    have ha : is.all (Instr.available s.params.cap) = true := List.all_eq_true.mpr fun i hi => (hall i hi).2
    simp only [enqueueRaw, hd, if_neg hok]
    exact .whenSynced hs (.whenCapable ha (.next _))

theorem pinMask_returns (p : PinReg) (bits : List (Option Bool)) : Returns (pinMask s p bits) := by
  rw [pinMask]
  split
  · exact .next _
  · exact .next _

theorem spiConfigure_returns (hs : s.sync = .synced) (cfg : SpiConfig) : Returns (spiConfigure s cfg) := by
  refine .whenSynced hs ?_
  split
  · exact .next _
  · exact .next _

theorem spiWrite_returns (hs : s.sync = .synced) (hc : s.spiCfg.isSome = true) (bytes : List Byte) :
    Returns (spiWrite s bytes) := by
  refine .whenSynced hs (.whenConfigured hc fun cfg => ?_)
  split
  · exact .next _
  · exact .next _

theorem spiReadWrite_returns (hs : s.sync = .synced) (hc : s.spiCfg.isSome = true) (bytes : List Byte) :
    Returns (spiReadWrite s bytes) := by
  refine .whenSynced hs (.whenConfigured hc fun cfg => ?_)
  split
  · exact .next _
  · exact .next _

end Formed

/-- A request of the interface that finds the service it needs returns: the operations without a check are next states by
their definition, and `formed` is what the other checks ask. -/
theorem perform_returns {r : Request} {s : State} (hs : r.needsSync = true → s.sync = .synced)
    (hf : r.formed s = true) : Returns (perform r s) := by
  cases r with
  | setBit _ _ | unsetBit _ _ | toggleBit _ _ | isSet _ _ => exact .whenInRange (.next _)
  | mask p bits => exact pinMask_returns p bits
  | fromByte _ _ | toByte _ | bringUp _ => exact .next _
  | syncHandshake => exact ⟨_, syncHandshake_eq s⟩
  | wire i => exact exec_returns (hs rfl) hf
  | encodeOnly i => exact encodeOp_returns (hs rfl) hf
  | enqueue bytes expected => exact enqueueRaw_returns (hs rfl) hf
  | spiConfigure cfg => exact spiConfigure_returns (hs rfl) cfg
  | spiWrite bytes => exact spiWrite_returns (hs rfl) hf bytes
  | spiReadWrite bytes => exact spiReadWrite_returns (hs rfl) hf bytes
  | pinWrite _ | pinRead _ | flush | i2cStart | i2cStop | i2cSendDeviceAddrAndCheckAck _ _ | i2cSendByteAndCheckAck _
  | i2cSendBytes _ | i2cReceiveByte _ => exact .whenSynced (hs rfl) (.next _)

/-- Settles O52: a request that needs service is in service, and `perform_returns`. -/
theorem formedRequestsComplete : Obligations.FormedRequestsComplete := by
  intro r s hs hf
  refine perform_returns (fun hn => hs.resolve_right fun h => ?_) hf
  rw [hn] at h
  cases h

/-! ## The transport calls of an operation (R52, R282) -/

/-! ### What makes no call -/

@[simp] theorem State.emitLow_calls (s : State) (k : Nat) : (s.emitLow k).calls = s.calls := by
  rw [State.emitLow_eq]

@[simp] theorem State.raiseLine_calls (s : State) (i : Nat) : (s.raiseLine i).calls = s.calls := by
  simp [State.raiseLine]

@[simp] theorem State.dropLine_calls (s : State) (i : Nat) : (s.dropLine i).calls = s.calls := by
  simp [State.dropLine]

@[simp] theorem State.startBothHigh_calls (s : State) : s.startBothHigh.calls = s.calls := by
  simp [State.startBothHigh]

@[simp] theorem State.stopBothLow_calls (s : State) : s.stopBothLow.calls = s.calls := by
  simp [State.stopBothLow]

@[simp] theorem State.sendCore_calls (s : State) (b : Byte) : (s.sendCore b).calls = s.calls := by
  rw [State.sendCore_eq]

@[simp] theorem State.sendAll_calls (s : State) (bytes : List Byte) : (s.sendAll bytes).calls = s.calls := by
  rw [State.sendAll_eq]

@[simp] theorem State.receiveCore_calls (s : State) (ack : Bool) : (s.receiveCore ack).calls = s.calls := by
  rw [State.receiveCore_eq]

@[simp] theorem State.spiTransfer_calls (s : State) (cfg : SpiConfig) (c : Encoded) :
    (s.spiTransfer cfg c).calls = s.calls := by
  cases h : cfg.chipSelectPolicy.activeLevel with
  | none => rw [State.spiTransfer_manual s cfg c h, State.enqueue_calls]
  | some level => rw [State.spiTransfer_auto s cfg c level h]

/-- The end of an operation makes no call of its own. -/
theorem finish_calls {α : Type} (a : Attempt α) {k : α → State → State} (hk : ∀ v u, (k v u).calls = u.calls) :
    (finish a k).calls = a.2.calls := by
  obtain ⟨res, t⟩ := a
  cases res with
  | ok v => exact hk v t
  | error e => exact State.raise_calls t e

/-! ### At most one write and one read -/

/-- From `s` to `t` no call was made, or one write, or one write and then one read (R52). -/
def State.Exchanges (s t : State) : Prop :=
  ∃ calls, t.calls = s.calls ++ calls ∧
    (calls = [] ∨ (∃ out, calls = [.write out]) ∨ ∃ out n, calls = [.write out, .read n])

theorem State.Exchanges.of_calls_eq {s t : State} (h : t.calls = s.calls) : s.Exchanges t :=
  ⟨[], by rw [h, List.append_nil], .inl rfl⟩

/-- A flush is one exchange at most (R162, R164). -/
theorem State.flush_exchanges (s : State) : s.Exchanges s.flush.2 := by
  rcases h : s.flush with ⟨res, t⟩
  rcases State.flush_cases h with ⟨_, _, rfl⟩ | ⟨_, _, rfl⟩ | ⟨_, _, _, rfl⟩ | ⟨_, _, _, rfl⟩ | ⟨_, _, _, _, _, rfl⟩
  · exact .of_calls_eq rfl
  · exact ⟨_, rfl, .inr (.inl ⟨_, rfl⟩)⟩
  · exact ⟨_, rfl, .inr (.inl ⟨_, rfl⟩)⟩
  · exact ⟨_, List.append_assoc _ _ _, .inr (.inr ⟨_, _, rfl⟩)⟩
  · exact ⟨_, List.append_assoc _ _ _, .inr (.inr ⟨_, _, rfl⟩)⟩

/-- An outcome that is a next state comes after at most one exchange. -/
def State.ExchangesIn (s : State) (out : Result) : Prop := ∀ t, out = .next t → s.Exchanges t

namespace State.ExchangesIn

variable {s : State}

/-- An operation that makes no call. -/
theorem next {t : State} (h : t.calls = s.calls) : s.ExchangesIn (.next t) := by
  rintro _ ⟨⟩
  exact .of_calls_eq h

/-- An operation whose one flush is its last act. -/
theorem flush {t : State} {k : List Byte → State → State} (h : t.calls = s.calls)
    (hk : ∀ resp u, (k resp u).calls = u.calls) : s.ExchangesIn (.next (finish t.flush k)) := by
  rintro _ ⟨⟩
  obtain ⟨calls, hc, hkind⟩ := t.flush_exchanges
  exact ⟨calls, by rw [finish_calls _ hk, hc, h], hkind⟩

theorem refused (reason : Refusal) : s.ExchangesIn (.refused reason) := fun _ h => nomatch h

theorem whenSynced {body : Result} (h : s.ExchangesIn body) : s.ExchangesIn (whenSynced s body) :=
  fun t ht => h t (whenSynced_next ht).2

theorem whenCapable {c : Bool} {body : Result} (h : s.ExchangesIn body) : s.ExchangesIn (whenCapable c body) :=
  fun t ht => h t (whenCapable_next ht).2

theorem whenConfigured {body : SpiConfig → Result} (h : ∀ cfg, s.ExchangesIn (body cfg)) :
    s.ExchangesIn (whenConfigured s body) := fun t ht => by
  obtain ⟨cfg, _, hb⟩ := whenConfigured_next ht
  exact h cfg t hb

theorem whenInRange {i : Nat} {body : Result} (h : s.ExchangesIn body) : s.ExchangesIn (whenInRange s i body) :=
  fun t ht => by
    rcases whenInRange_next ht with rfl | hb
    · exact .of_calls_eq (State.raise_calls _ _)
    · exact h t hb

theorem updatePin (p : PinReg) (v : Byte) : s.ExchangesIn (updatePin s p v) := .next (State.setPin_calls _ _ _)

theorem enqueueOp {t : State} (h : t.calls = s.calls) (res : Except OpError Encoded) :
    s.ExchangesIn (enqueueOp t res) := by
  cases res with
  | ok c => exact .next h
  | error e => exact .next ((State.raise_calls _ _).trans h)

end State.ExchangesIn

theorem exec_exchangesIn {i : Instr} (hi : i.isProbe = false) (s : State) : s.ExchangesIn (exec i s) := fun t h => by
  obtain ⟨_, _, res, _, ht⟩ := exec_next_of_not_isProbe hi h
  exact State.ExchangesIn.enqueueOp (State.recordAll_calls _ _) res t ht

theorem pinMask_exchangesIn (s : State) (p : PinReg) (bits : List (Option Bool)) :
    s.ExchangesIn (pinMask s p bits) := by
  rw [pinMask]
  split
  · exact .next (State.raise_calls _ _)
  · exact .updatePin p _

theorem encodeOp_exchangesIn (s : State) (i : Instr) : s.ExchangesIn (encodeOp s i) := by
  refine .whenSynced ?_
  split
  · exact .refused _
  · refine .whenCapable ?_
    split
    · exact .next rfl
    · exact .next (State.raise_calls _ _)

theorem enqueueRaw_exchangesIn (s : State) (bytes : List Byte) (expected : Nat) :
    s.ExchangesIn (enqueueRaw s bytes expected) := by
  refine .whenSynced ?_
  split
  · exact .refused _
  · split
    · exact .refused _
    · exact .whenCapable (.next rfl)

theorem spiConfigure_exchangesIn (s : State) (cfg : SpiConfig) : s.ExchangesIn (spiConfigure s cfg) := by
  refine .whenSynced ?_
  split
  · exact .next (State.raise_calls _ _)
  · exact .next (by simp)

theorem spiWrite_exchangesIn (s : State) (bytes : List Byte) : s.ExchangesIn (spiWrite s bytes) := by
  refine .whenSynced (.whenConfigured fun cfg => ?_)
  split
  · exact .next (State.raise_calls _ _)
  · exact .flush (State.spiTransfer_calls _ _ _) fun _ _ => rfl

theorem spiReadWrite_exchangesIn (s : State) (bytes : List Byte) : s.ExchangesIn (spiReadWrite s bytes) := by
  refine .whenSynced (.whenConfigured fun cfg => ?_)
  split
  · exact .next (State.raise_calls _ _)
  · exact .flush (State.spiTransfer_calls _ _ _) fun _ _ => rfl

/-- Every request but the handshake, a probe round and a bring-up call is one exchange at most: none of its own, or its
flush. -/
theorem perform_exchangesIn {r : Request} (s : State) (hsync : r ≠ .syncHandshake) (hprobe : r.isProbeRound = false)
    (hbring : r.isBringUp = false) : s.ExchangesIn (perform r s) := by
  cases r with
  | setBit p _ | unsetBit p _ | toggleBit p _ => exact .whenInRange (.updatePin p _)
  | isSet _ _ => exact .whenInRange (.next rfl)
  | mask p bits => exact pinMask_exchangesIn s p bits
  | fromByte p v => exact .updatePin p v
  | toByte _ => exact .next rfl
  | pinWrite _ => exact .whenSynced (.next rfl)
  | pinRead _ => exact .whenSynced (.flush rfl fun _ _ => rfl)
  | wire i => exact exec_exchangesIn hprobe s
  | encodeOnly i => exact encodeOp_exchangesIn s i
  | enqueue bytes expected => exact enqueueRaw_exchangesIn s bytes expected
  | flush => exact .whenSynced (.flush rfl fun _ _ => rfl)
  | syncHandshake => exact absurd rfl hsync
  | i2cStart => exact .whenSynced (.next (by simp))
  | i2cStop => exact .whenSynced (.flush (by simp) fun _ _ => rfl)
  | i2cSendDeviceAddrAndCheckAck _ _ | i2cSendByteAndCheckAck _ =>
    exact .whenSynced (.flush (State.sendCore_calls _ _) fun _ _ => rfl)
  | i2cSendBytes bytes => exact .whenSynced (.flush (State.sendAll_calls _ _) fun _ _ => rfl)
  | i2cReceiveByte ack => exact .whenSynced (.flush (State.receiveCore_calls _ _) fun _ _ => rfl)
  | spiConfigure cfg => exact spiConfigure_exchangesIn s cfg
  | spiWrite bytes => exact spiWrite_exchangesIn s bytes
  | spiReadWrite bytes => exact spiReadWrite_exchangesIn s bytes
  | bringUp _ => cases hbring

/-! ### The probe rounds, the handshake and the bring-up calls -/

/-- From `s` to `t` at most `n` calls were made. -/
def State.CallsAtMost (s t : State) (n : Nat) : Prop := ∃ calls, t.calls = s.calls ++ calls ∧ calls.length ≤ n

theorem State.CallsAtMost.trans {s t u : State} {m n : Nat} (h : s.CallsAtMost t m) (h' : t.CallsAtMost u n) :
    s.CallsAtMost u (m + n) := by
  obtain ⟨cs, hc, hm⟩ := h
  obtain ⟨cs', hc', hn⟩ := h'
  exact ⟨cs ++ cs', by rw [hc', hc, List.append_assoc], by rw [List.length_append]; omega⟩

theorem State.CallsAtMost.mono {s t : State} {m n : Nat} (h : s.CallsAtMost t m) (hmn : m ≤ n) : s.CallsAtMost t n := by
  obtain ⟨cs, hc, hm⟩ := h
  exact ⟨cs, hc, hm.trans hmn⟩

theorem State.OnlyCalls.params_eq {s t : State} (h : s.OnlyCalls t) : t.params = s.params := by
  obtain ⟨_, _, _, rfl⟩ := h
  rfl

/-- A probe round: its write, its polls, its read (R177, R178). -/
theorem State.probe_callsAtMost (s : State) (x : Byte) :
    s.CallsAtMost (s.probe x).2 (2 + s.params.syncPollLimit) := by
  obtain ⟨_, j, hj, last, hlast, hc⟩ := s.probe_calls x
  have hlen : last.length ≤ 1 := by
    rcases hlast with rfl | ⟨n, rfl⟩
    · exact Nat.zero_le _
    · exact Nat.le_refl _
  refine ⟨_, hc, ?_⟩
  simp only [List.length_cons, List.length_append, List.length_replicate]
  omega

theorem whenRound_probe_callsAtMost {s t : State} {round : Round} {x : Byte} {k : Unit → State → State}
    (h : whenRound s round (.next (finish (s.probe x) k)) = .next t) (hk : ∀ v u, (k v u).calls = u.calls) :
    s.CallsAtMost t (2 + s.params.syncPollLimit) := by
  obtain ⟨_, ⟨⟩⟩ := whenRound_next h
  obtain ⟨calls, hc, hlen⟩ := s.probe_callsAtMost x
  exact ⟨calls, (finish_calls _ hk).trans hc, hlen⟩

theorem exec_callsAtMost_of_isProbe {i : Instr} {s t : State} (hi : i.isProbe = true) (h : exec i s = .next t) :
    s.CallsAtMost t (2 + s.params.syncPollLimit) := by
  cases i with
  | syncProbe1 | syncProbe2 => exact whenRound_probe_callsAtMost h fun _ _ => rfl
  | _ => cases hi

/-- The handshake: two rounds, or the first alone (R179). -/
theorem syncHandshake_callsAtMost {s t : State} (h : syncHandshake s = .next t) :
    s.CallsAtMost t (2 * (2 + s.params.syncPollLimit)) := by
  have hfirst := s.beginHandshake.probe_callsAtMost Config.syncByte1
  have hsame := (s.beginHandshake.probe_calls Config.syncByte1).1
  rw [syncHandshake_eq] at h
  cases h
  rcases hp : s.beginHandshake.probe Config.syncByte1 with ⟨res, u⟩
  rw [hp] at hfirst hsame
  rw [State.CallsAtMost, finish_calls (hk := ?keeps)]
  case keeps => exact fun _ _ => rfl
  cases res with
  | ok v =>
    have hlimit : u.params = s.params := hsame.params_eq
    have hsecond := (u.setRound .second).probe_callsAtMost Config.syncByte2
    rw [State.setRound_params, hlimit] at hsecond
    exact (hfirst.trans hsecond).mono (Nat.two_mul _).ge
  | error e => exact hfirst.mono (Nat.le_mul_of_pos_left _ Nat.two_pos)

/-- A bring-up call is one call, whatever the transport answers (R262). -/
theorem bringUpOp_calls {s t : State} {c : BringUpCall} (h : bringUpOp s c = .next t) :
    t.calls = s.calls ++ [.bringUp c] := by
  cases h
  rw [finish_calls (hk := ?keeps), State.transportBringUp]
  case keeps => exact fun _ _ => rfl
  split
  · rfl
  · rfl

/-- Settles O56: the four kinds of requests, by what each is. -/
theorem transportCallsAreBounded : Obligations.TransportCallsAreBounded := by
  intro r s t h
  by_cases hsync : r = .syncHandshake
  · subst hsync
    obtain ⟨calls, hc, hlen⟩ := syncHandshake_callsAtMost h
    exact ⟨calls, hc, fun _ => hlen, nofun, nofun, fun hne => absurd rfl hne⟩
  cases hprobe : r.isProbeRound with
  | true =>
    cases r with
    | wire i =>
      obtain ⟨calls, hc, hlen⟩ := exec_callsAtMost_of_isProbe hprobe h
      exact ⟨calls, hc, nofun, fun _ => hlen, nofun, nofun⟩
    | _ => cases hprobe
  | false =>
    cases hbring : r.isBringUp with
    | true =>
      cases r with
      | bringUp c => exact ⟨_, bringUpOp_calls h, nofun, nofun, fun _ => rfl, nofun⟩
      | _ => cases hbring
    | false =>
      obtain ⟨calls, hc, hkind⟩ := perform_exchangesIn s hsync hprobe hbring t h
      exact ⟨calls, hc, fun hr => absurd hr hsync, nofun, nofun, fun _ _ _ => hkind⟩

end Sys2Proof.Machine

/-! PROOFS. The formats of section 30: how long a command is and what the decoder makes of that many bytes (R70 to R81,
R85), and the round of a probe byte in the handshake (R79, R177). -/

namespace Sys2Proof.Machine

/-! ## The length of a command (R85) -/

/-- The two length bytes give the opcode, themselves and `L` bytes of payload (R80, R85). -/
theorem commandLength_encodePayload {op : Byte} {p : List Byte}
    (hlen : ∀ l u r, commandLength (op :: l :: u :: r) = some (3 + 1 + l.toNat + 256 * u.toNat))
    (hp : payloadOk p = true) (rest : List Byte) :
    commandLength (encodePayload op p ++ rest) = some (encodePayload op p).length := by
  obtain ⟨h1, h2⟩ := (payloadOk_iff p).mp hp
  have hfield : u16 (lo8 (p.length - 1)) (hi8 (p.length - 1)) = p.length - 1 := u16_lo8_hi8 (by omega)
  rw [encodePayload, List.cons_append, List.cons_append, List.cons_append, hlen]
  simp only [u16] at hfield
  simp only [List.length_cons, Option.some.injEq]
  omega

/-- R85 gives every command the length of its encoding, whatever follows it. -/
theorem commandLength_encode_append {i : Instr} (hw : i.wellFormed = true) (rest : List Byte) :
    commandLength (encode i ++ rest) = some (encode i).length := by
  cases i with
  | bytesOutMsbFall p | bytesOutMsbRise p | bytesInOutMsbRiseInFallOut p | bytesInOutMsbFallInRiseOut p =>
    exact commandLength_encodePayload (fun _ _ _ => rfl) hw rest
  | _ => rfl

/-- The length of a command that was read is the one R85 gives, and what was left is what comes after it. -/
theorem commandLength_of_decode_ok {bs rest : List Byte} {i : Instr} (h : decode bs = .ok (i, rest)) :
    ∃ n, commandLength bs = some n ∧ n ≤ bs.length ∧ rest = bs.drop n := by
  obtain ⟨hw, rfl⟩ := decode_reads bs i rest h
  exact ⟨_, commandLength_encode_append hw rest, by simp, by simp⟩

/-! ## What the decoder makes of as many bytes as the length says -/

/-- A command is read from the bytes `bs` and leaves `rest`, or its bit-count field is above 7 (R81, log entry 25). -/
def ReadOrBadBitCount (bs rest : List Byte) : Prop :=
  (∃ i, decode bs = .ok (i, rest)) ∨ ∃ op field, decode bs = .error (.badBitCount op field) ∧ 8 ≤ field.toNat

/-- A bit count is read unless its field is above 7 (R81). -/
theorem readOrBadBitCount_of_bits {op field : Byte} {mk : Nat → Instr} {bs rest : List Byte}
    (h : decode bs = decodeBitCount op field mk rest) : ReadOrBadBitCount bs rest := by
  rw [decodeBitCount] at h
  split at h
  · exact .inl ⟨_, h⟩
  · next hfield => exact .inr ⟨op, field, h, not_lt.mp hfield⟩

/-- A payload is read when all of it is there (R75, R76, R80). -/
theorem readOrBadBitCount_of_payload {op l u : Byte} {mk : List Byte → Instr} {bs p : List Byte}
    (h : decode bs = decodePayload op mk (l :: u :: p)) (hp : u16 l u + 1 ≤ p.length) :
    ReadOrBadBitCount bs (p.drop (u16 l u + 1)) := by
  rw [decodePayload, takeExactly_of_le hp] at h
  exact .inl ⟨_, h⟩

/-- The four kinds of opcodes R85 lists, by how the length of their commands is found. -/
theorem commandLength_eq_some {op : Byte} {bs : List Byte} {n : Nat} (h : commandLength (op :: bs) = some n) :
    (op ∈ [0x81#8, 0x83#8, 0x87#8, 0x85#8, 0x8A#8, 0x8C#8, 0xAA#8, 0xAB#8] ∧ n = 1) ∨
    (op = 0x22#8 ∧ n = 2) ∨
    (op ∈ [0x80#8, 0x82#8, 0x86#8, 0x9E#8, 0x13#8] ∧ n = 3) ∨
    (op ∈ [0x11#8, 0x10#8, 0x31#8, 0x34#8] ∧ ∃ l u p, bs = l :: u :: p ∧ n = u16 l u + 1 + 3) := by
  simp only [commandLength] at h
  split at h
  · next hop => cases h; exact .inl ⟨hop, rfl⟩
  split at h
  · next hop => cases h; exact .inr (.inl ⟨hop, rfl⟩)
  split at h
  · next hop => cases h; exact .inr (.inr (.inl ⟨hop, rfl⟩))
  split at h
  · next hop =>
    split at h
    · next l u p =>
      cases h
      exact .inr (.inr (.inr ⟨hop, l, u, p, rfl, by simp only [u16]; omega⟩))
    · cases h
  · cases h

/-- As many bytes as R85 says are a command, but for the bit count. -/
theorem readOrBadBitCount_of_commandLength {bs : List Byte} {n : Nat} (h : commandLength bs = some n)
    (hn : n ≤ bs.length) : ReadOrBadBitCount bs (bs.drop n) := by
  rcases bs with _ | ⟨op, bs⟩
  · cases h
  rcases commandLength_eq_some h with ⟨hop, rfl⟩ | ⟨rfl, rfl⟩ | ⟨hop, rfl⟩ | ⟨hop, l, u, p, rfl, rfl⟩
  · simp only [List.mem_cons, List.not_mem_nil, or_false] at hop
    rcases hop with rfl | rfl | rfl | rfl | rfl | rfl | rfl | rfl <;> exact .inl ⟨_, rfl⟩
  · obtain ⟨field, r, rfl⟩ := List.exists_cons_of_length_pos (Nat.le_of_succ_le_succ hn)
    exact readOrBadBitCount_of_bits rfl
  · obtain ⟨a, b, r, rfl⟩ : ∃ a b r, bs = a :: b :: r := by
      rcases bs with _ | ⟨a, _ | ⟨b, r⟩⟩
      · simp at hn
      · simp at hn
      · exact ⟨a, b, r, rfl⟩
    simp only [List.mem_cons, List.not_mem_nil, or_false] at hop
    rcases hop with rfl | rfl | rfl | rfl | rfl
    · exact .inl ⟨_, rfl⟩
    · exact .inl ⟨_, rfl⟩
    · exact .inl ⟨_, rfl⟩
    · exact .inl ⟨_, rfl⟩
    · exact readOrBadBitCount_of_bits (mk := fun n => .bitsOutMsbFall n b) rfl
  · have hp : u16 l u + 1 ≤ p.length := by simpa using hn
    simp only [List.mem_cons, List.not_mem_nil, or_false] at hop
    rcases hop with rfl | rfl | rfl | rfl <;> exact readOrBadBitCount_of_payload rfl hp

/-! ## A probe byte and its round (R79, R87, R177) -/

theorem whenRound_of_round {s : State} {r : Round} (h : s.handshake = some r) (body : Result) :
    whenRound s r body = body := if_pos h

theorem whenRound_outside {s : State} {r : Round} (hs : s.sync = .synced) (h : s.handshake ≠ some r) (body : Result) :
    whenRound s r body = .refused .outsideHandshake := by
  rw [whenRound, if_neg h, whenSynced, hs]

/-- A served probe round whose reply has the echo in it passes, with the calls of R177. -/
theorem State.probe_echoed {s : State} {x : Byte} {zeros rest : List Answer} {before after : List Byte}
    (h : servedProbe s.params.syncPollLimit zeros (before ++ [0xFA#8, x] ++ after) s.answers rest) :
    s.probe x = (.ok (), { s with
      answers := rest, calls := s.calls ++ probeCalls x (zeros.length + 1) (before.length + 2 + after.length) }) := by
  have hecho : echoFound x (before ++ [0xFA#8, x] ++ after) = true := (echoFound_iff x _).mpr ⟨before, after, rfl⟩
  have hlen : (before ++ [0xFA#8, x] ++ after).length = before.length + 2 + after.length := by
    simp only [List.length_append, List.length_cons, List.length_nil]
  rw [State.probe_served h, if_pos hecho, hlen]

/-! ## The obligations -/

/-- Settles O2: one round trip per row of R83 (`decode_encode_append`). -/
theorem decodeInvertsEncode : Obligations.DecodeInvertsEncode := fun _ rest hw => decode_encode_append hw rest

/-- Settles O3: one reading per opcode of R83 (`decode_reads`). -/
theorem decodedCommandsReencode : Obligations.DecodedCommandsReencode := fun bs rest i h => decode_reads bs i rest h

/-- Settles O5: what is read reencodes, so its length is that of its encoding; were a byte sequence that is too short or no
command read, it would have such a length; and by the kind of its opcode a whole command is read. -/
theorem commandLengthFollowsFromTheOpcode : Obligations.CommandLengthFollowsFromTheOpcode := by
  refine ⟨fun _ _ _ => commandLength_of_decode_ok, fun bs hshort => ?_, fun _ _ => readOrBadBitCount_of_commandLength⟩
  cases hd : decode bs with
  | error e => exact ⟨e, rfl⟩
  | ok x =>
    obtain ⟨n, hn, hle, -⟩ := commandLength_of_decode_ok hd
    rcases hshort with hnone | ⟨m, hm, hlt⟩
    · cases hn.symm.trans hnone
    · cases hn.symm.trans hm
      exact absurd hlt (not_lt.mpr hle)

/-- Settles O1: the decoder evaluated on each word (R83). -/
theorem specWordsDecodeToTheirCommands : Obligations.SpecWordsDecodeToTheirCommands :=
  ⟨rfl, rfl, rfl, rfl, rfl, rfl, rfl, rfl, rfl, rfl⟩

/-- Settles O15: in its round the byte is the probe round, which passes (`State.probe_echoed`); outside it is refused. -/
theorem probeRoundCompletesOnItsEcho : Obligations.ProbeRoundCompletesOnItsEcho := by
  refine ⟨fun s zeros rest before after => ⟨fun hr hserved => ?_, fun hr hserved => ?_⟩, fun s hs =>
    ⟨fun hr => whenRound_outside hs hr _, fun hr => whenRound_outside hs hr _⟩⟩
  · rw [exec, execSyncProbe1, whenRound_of_round hr, Config.syncByte1, State.probe_echoed hserved]
    rfl
  · rw [exec, execSyncProbe2, whenRound_of_round hr, Config.syncByte2, State.probe_echoed hserved]
    rfl

end Sys2Proof.Machine

/-! PROOFS. The pin register operations (40_pin_registers.md): the bits of one register (R100 to R109), the four registers
(R20), and the two operations that emit or read a bank (R110, R111). -/

namespace Sys2Proof.Machine

/-! ## The bits an operation leaves (R109) -/

/-- To agree at bit `j` two bytes need to be compared for `j` below 8 only: there is no bit from 8 on (R9). -/
theorem getLsbD_eq_of_lt {r r' : Byte} {j : Nat} (h : j < 8 → r'.getLsbD j = r.getLsbD j) :
    r'.getLsbD j = r.getLsbD j := by
  by_cases hj : j < 8
  · exact h hj
  · rw [BitVec.getLsbD_of_ge _ _ (not_lt.mp hj), BitVec.getLsbD_of_ge _ _ (not_lt.mp hj)]

section OtherBits

variable (r : Byte) {i j : Nat} (hne : j ≠ i)

include hne

theorem getLsbD_setBit_of_ne : (setBit r i).getLsbD j = r.getLsbD j :=
  getLsbD_eq_of_lt fun hj => by simp [getLsbD_setBit r i j hj, hne]

theorem getLsbD_unsetBit_of_ne : (unsetBit r i).getLsbD j = r.getLsbD j :=
  getLsbD_eq_of_lt fun hj => by simp [getLsbD_unsetBit r i j hj, hne]

theorem getLsbD_toggleBit_of_ne : (toggleBit r i).getLsbD j = r.getLsbD j :=
  getLsbD_eq_of_lt fun hj => by simp [getLsbD_toggleBit r i j hj, hne]

/-- One element of a `mask` array touches its own bit only (R105). -/
theorem getLsbD_maskBit_of_ne (b : Option Bool) : (maskBit r i b).getLsbD j = r.getLsbD j := by
  rcases b with _ | _ | _
  · rfl
  · exact getLsbD_unsetBit_of_ne r hne
  · exact getLsbD_setBit_of_ne r hne

end OtherBits

/-- Toggling twice restores the register (R109). -/
theorem toggleBit_toggleBit (r : Byte) (i : Nat) : toggleBit (toggleBit r i) i = r := by
  rw [toggleBit, toggleBit, BitVec.xor_assoc, BitVec.xor_self, BitVec.xor_zero]

/-! ## The bits `mask` gives (R105) -/

/-- One element of a `mask` array decides its bit, and `None` leaves it (R105). -/
theorem getLsbD_maskBit_same (r : Byte) {i : Nat} (hi : i < 8) (b : Option Bool) :
    (maskBit r i b).getLsbD i = b.getD (r.getLsbD i) := by
  rcases b with _ | _ | _
  · rfl
  · simp [maskBit, putBit, getLsbD_unsetBit r i i hi]
  · simp [maskBit, putBit, getLsbD_setBit r i i hi]

/-- The bits from the length of the array on are left (R105). -/
theorem getLsbD_maskByte_of_length_le {bits : List (Option Bool)} {j : Nat} (h : bits.length ≤ j) (r : Byte) :
    (maskByte bits r).getLsbD j = r.getLsbD j := by
  induction bits generalizing r with
  | nil => rfl
  | cons b bs ih =>
    have hlt : bs.length < j := h
    rw [maskByte, ih hlt.le, getLsbD_maskBit_of_ne r hlt.ne']

/-- Element `k` of `N` decides bit `N - 1 - k`: the elements after it go to lower bits (R105). -/
theorem getLsbD_maskByte_getElem {bits : List (Option Bool)} (hlen : bits.length ≤ 8) (r : Byte) {k : Nat}
    (hk : k < bits.length) :
    (maskByte bits r).getLsbD (bits.length - 1 - k) = (bits[k]).getD (r.getLsbD (bits.length - 1 - k)) := by
  induction bits generalizing r k with
  | nil => cases hk
  | cons b bs ih =>
    cases k with
    | zero => exact (getLsbD_maskByte_of_length_le (Nat.le_refl _) _).trans (getLsbD_maskBit_same r hlen b)
    | succ k =>
      have hk' : k < bs.length := Nat.lt_of_succ_lt_succ hk
      have hbit : (b :: bs).length - 1 - (k + 1) = bs.length - 1 - k := by simp only [List.length_cons]; omega
      have hne : bs.length - 1 - k ≠ bs.length := by omega
      rw [hbit, maskByte, ih (Nat.le_of_succ_le hlen) _ hk', getLsbD_maskBit_of_ne r hne, List.getElem_cons_succ]

/-! ## The operations on one register (R100) -/

/-- An update writes its register, returns the new value and changes nothing else (R100). -/
theorem updatePin_eq (s : State) (r : PinReg) (v : Byte) :
    updatePin s r v = .next { s.setPin r v with results := s.results ++ [.byte v] } := by
  rw [updatePin, State.reply, State.setPin_results]

theorem whenInRange_of_le {i : Nat} (h : i ≤ 7) (s : State) (body : Result) : whenInRange s i body = body :=
  if_neg (not_lt.mpr h)

/-- An index above 7 is a `RangeError` and nothing else is changed (R100, R241). -/
theorem whenInRange_of_lt {i : Nat} (h : 7 < i) (s : State) (body : Result) :
    whenInRange s i body = .next (s.withError (.rangeError i)) :=
  if_pos h

/-! ## The level byte of a bank (R111) -/

/-- The two fragments of `PinRead` after anything pending (R111). -/
theorem State.enqueue_read_sendImmediate (s : State) (b : Bank) :
    (s.enqueue (readBitsCommand b)).enqueue Encoder.sendImmediate = { s with
      txbuf := s.txbuf ++ [if b = .low then 0x81#8 else 0x83#8, 0x87#8], rxexp := s.rxexp ++ [1, 0] } := by
  cases b <;>
    simp [State.enqueue, readBitsCommand, Encoder.readDataBitsLowByte, Encoder.readDataBitsHighByte, Encoder.sendImmediate]

/-- A 1-byte fragment followed only by fragments without a response owns the last byte of the response (R163). -/
theorem sliceByte_last {lens : List Nat} {earlier : List Byte} (h : earlier.length = lens.sum) (level : Byte) :
    sliceByte (lens ++ [1, 0]) (earlier ++ [level]) lens.length = level := by
  have hslice := slice_middle lens [0] 1 earlier [level] [] h rfl
  rw [List.append_nil] at hslice
  rw [sliceByte, hslice, List.headD_cons]

/-! ## The obligations -/

/-- Settles O18: the bit an operation names is read from `getLsbD_setBit` and `getLsbD_unsetBit`, the others are left. -/
theorem bitOperationLaws : Obligations.BitOperationLaws := by
  intro r i j hi
  have hi8 : i < 8 := Nat.lt_succ_of_le hi
  have hset : isSet (setBit r i) i = true := by simp [isSet, getLsbD_setBit r i i hi8]
  have hunset : isSet (unsetBit r i) i = false := by simp [isSet, getLsbD_unsetBit r i i hi8]
  exact ⟨hset, hunset, toggleBit_toggleBit r i, fun hne =>
    ⟨getLsbD_setBit_of_ne r hne, getLsbD_unsetBit_of_ne r hne, getLsbD_toggleBit_of_ne r hne⟩⟩

/-- Settles O19: the value written is `maskByte`, whose bits are those of the array and, from its length on, the old ones. -/
theorem maskGivesTheLastElementToBitZero : Obligations.MaskGivesTheLastElementToBitZero := by
  refine fun s r bits => ⟨fun hlen => ⟨maskByte bits (s.pin r), ?_, fun _ => getLsbD_maskByte_getElem hlen _,
    fun _ hj => getLsbD_maskByte_of_length_le hj _⟩, fun hlen => if_pos hlen⟩
  rw [perform, pinMask, if_neg (not_lt.mpr hlen), updatePin_eq]

/-- Settles O17: in range each operation is its update or its read (`updatePin_eq`), out of range the `RangeError`. -/
theorem bitOperationsActOnOneRegister : Obligations.BitOperationsActOnOneRegister := by
  refine fun s r i => ⟨fun hi => ⟨?_, ?_, ?_, whenInRange_of_le hi s _⟩, fun hi => ⟨whenInRange_of_lt hi s _,
    whenInRange_of_lt hi s _, whenInRange_of_lt hi s _, whenInRange_of_lt hi s _⟩⟩
  · exact (whenInRange_of_le hi s _).trans (updatePin_eq s r _)
  · exact (whenInRange_of_le hi s _).trans (updatePin_eq s r _)
  · exact (whenInRange_of_le hi s _).trans (updatePin_eq s r _)

/-- Settles O20: `from_byte` is an update, `to_byte` a read, and a write reaches its own register only (`State.pin_setPin`). -/
theorem byteConversionsReadBackAndDoNotAlias : Obligations.ByteConversionsReadBackAndDoNotAlias := fun s r r' v =>
  ⟨updatePin_eq s r v, rfl, (s.pin_setPin r r v).trans (if_pos rfl), fun hne =>
    (s.pin_setPin r r' v).trans (if_neg hne)⟩

/-- Settles O21: in service `PinWrite` enqueues the set command of its bank and replies. -/
theorem pinWriteAppendsTheBankRegisters : Obligations.PinWriteAppendsTheBankRegisters := fun _ hs =>
  ⟨whenSynced_synced hs _, whenSynced_synced hs _⟩

/-- Settles O22: the flush is served (`State.flush_served`), and the read command owns the last byte of its response. -/
theorem pinReadReturnsTheLastResponseByte : Obligations.PinReadReturnsTheLastResponseByte := by
  intro s b earlier level rest hs hearlier out hserved
  have hsum : (s.rxexp ++ [1, 0]).sum = s.rxexp.sum + 1 := by simp
  have hflush := State.flush_served (s := { s with txbuf := out, rxexp := s.rxexp ++ [1, 0] }) hserved rfl hsum rfl
    (by simp [out])
  rw [perform, pinRead, whenSynced_synced hs]
  simp only [State.enqueue_read_sendImmediate]
  rw [hflush, finish_ok, sliceByte_last hearlier]
  rfl

end Sys2Proof.Machine

/-! PROOFS. The wire commands (41_wire_commands.md): what each encoder function returns (R120 to R122, R154), and what a
command leaves that is enqueued, or only encoded (R123 to R152, R160). -/

namespace Sys2Proof

/-- A payload out of range is empty or has more than 65536 bytes (R121). -/
theorem payloadOk_eq_false_iff (p : List Byte) : payloadOk p = false ↔ p.length = 0 ∨ 65536 < p.length := by
  rw [← Bool.not_eq_true, payloadOk_iff]
  omega

/-- A bit count out of range is 0 or above 8 (R122). -/
theorem bitCountOk_eq_false_iff (n : Nat) : bitCountOk n = false ↔ n = 0 ∨ 8 < n := by
  rw [← Bool.not_eq_true, bitCountOk_iff]
  omega

/-- The two operand bytes of a divisor are its low and its high byte (R73). -/
theorem lo8_toNat_eq_extractLsb' (d : BitVec 16) : lo8 d.toNat = d.extractLsb' 0 8 := rfl

theorem hi8_toNat_eq_extractLsb' (d : BitVec 16) : hi8 d.toNat = d.extractLsb' 8 8 := by
  rw [hi8, BitVec.extractLsb', Nat.shiftRight_eq_div_pow]

end Sys2Proof

namespace Sys2Proof.Machine

/-! ## The two length rules (R121, R122) -/

theorem byteCommand_of_payloadOk {p : List Byte} (h : payloadOk p = true) (op : Byte) (e : Nat) :
    byteCommand op p e = .ok (encodePayload op p, e) := by
  obtain ⟨h1, h2⟩ := (payloadOk_iff p).mp h
  exact if_neg (by simp only [Config.maxLen]; omega)

theorem byteCommand_of_not_payloadOk {p : List Byte} (h : payloadOk p = false) (op : Byte) (e : Nat) :
    byteCommand op p e = .error (.encodingError p.length) :=
  if_pos ((payloadOk_eq_false_iff p).mp h)

theorem bitCommand_of_bitCountOk {n : Nat} (h : bitCountOk n = true) (op : Byte) (operands : List Byte) (e : Nat) :
    bitCommand op n operands e = .ok (op :: lo8 (n - 1) :: operands, e) := by
  obtain ⟨h1, h2⟩ := (bitCountOk_iff n).mp h
  exact if_neg (by simp only [Config.maxBits]; omega)

theorem bitCommand_of_not_bitCountOk {n : Nat} (h : bitCountOk n = false) (op : Byte) (operands : List Byte) (e : Nat) :
    bitCommand op n operands e = .error (.encodingError n) :=
  if_pos ((bitCountOk_eq_false_iff n).mp h)

/-! ## The encoder functions against the formats (R120, R154) -/

/-- In range an encoder function gives the bytes of the format and the response length of a correct engine. -/
theorem encoderOf_of_wellFormed {i : Instr} (hi : i.isProbe = false) (hw : i.wellFormed = true) :
    encoderOf i = some (.ok (encode i, engineResponseBytes i)) := by
  cases i with
  | bytesOutMsbFall p | bytesOutMsbRise p | bytesInOutMsbRiseInFallOut p | bytesInOutMsbFallInRiseOut p =>
    exact congrArg some (byteCommand_of_payloadOk hw _ _)
  | bitsOutMsbFall n _ | bitsInMsbRise n => exact congrArg some (bitCommand_of_bitCountOk hw _ _ _)
  | syncProbe1 | syncProbe2 => cases hi
  | _ => rfl

/-- Out of range, which only a payload or a bit count can be, an encoder function gives its `EncodingError`. -/
theorem encoderOf_of_not_wellFormed {i : Instr} (hw : i.wellFormed = false) :
    ∃ n, encoderOf i = some (.error (.encodingError n)) := by
  cases i with
  | bytesOutMsbFall p | bytesOutMsbRise p | bytesInOutMsbRiseInFallOut p | bytesInOutMsbFallInRiseOut p =>
    exact ⟨p.length, congrArg some (byteCommand_of_not_payloadOk hw _ _)⟩
  | bitsOutMsbFall n _ | bitsInMsbRise n => exact ⟨n, congrArg some (bitCommand_of_not_bitCountOk hw _ _ _)⟩
  | _ => cases hw

theorem encoderOf_of_isProbe {i : Instr} (hi : i.isProbe = true) : encoderOf i = none := by
  cases i with
  | syncProbe1 | syncProbe2 => rfl
  | _ => cases hi

/-! ## A wire command and an encoder call in service (R123, R152, R160) -/

section InService

variable {s : State} {i : Instr} {e : OpError}

/-- The command appends its bytes as one fragment, and writes the shadow it has (R123, R160). -/
theorem exec_of_wellFormed (hs : s.sync = .synced) (ha : i.available s.params.cap = true) (hi : i.isProbe = false)
    (hw : i.wellFormed = true) :
    exec i s = .next ((s.recordAll [i]).withFragment (encode i) (engineResponseBytes i)) :=
  exec_eq_enqueueOp hs ha (encoderOf_of_wellFormed hi hw)

/-- Out of range the command changes nothing, no shadow either (R160, R242). -/
theorem exec_of_encodingError {n : Nat} (hs : s.sync = .synced) (ha : i.available s.params.cap = true)
    (hi : encoderOf i = some (.error (.encodingError n))) : exec i s = .next (s.withError (.encodingError n)) := by
  cases i with
  | bytesOutMsbFall _ | bytesOutMsbRise _ | bytesInOutMsbRiseInFallOut _ | bytesInOutMsbFallInRiseOut _
  | bitsOutMsbFall _ _ | bitsInMsbRise _ => exact exec_eq_enqueueOp hs ha hi
  | _ => cases hi

/-- Without its capability a command is refused (R152). -/
theorem exec_of_not_available (hs : s.sync = .synced) (ha : i.available s.params.cap = false) :
    exec i s = .refused .capabilityAbsent := by
  cases i with
  | disClkDiv5 | en3Phase | setDriveZero _ _ =>
    exact (whenSynced_synced hs _).trans (if_neg (ne_true_of_eq_false ha))
  | _ => cases ha

/-- A call of an available encoder function is settled by what the function returns (R120). -/
theorem encodeOp_of_ok {c : Encoded} (hs : s.sync = .synced) (ha : i.available s.params.cap = true)
    (hi : encoderOf i = some (.ok c)) : encodeOp s i = .next (s.reply (.encoded c.1 c.2)) := by
  rw [encodeOp, whenSynced_synced hs, hi]
  exact if_pos ha

theorem encodeOp_of_error (hs : s.sync = .synced) (ha : i.available s.params.cap = true)
    (hi : encoderOf i = some (.error e)) : encodeOp s i = .next (s.raise e) := by
  rw [encodeOp, whenSynced_synced hs, hi]
  exact if_pos ha

end InService

/-! ## The obligations -/

/-- Settles O8: the probe bytes have no function, and the length rules decide the six functions that can fail. -/
theorem encoderFunctionsAgreeWithTheFormats : Obligations.EncoderFunctionsAgreeWithTheFormats := fun _ =>
  ⟨encoderOf_of_isProbe, encoderOf_of_wellFormed, fun _ => encoderOf_of_not_wellFormed⟩

/-- Settles O6: the four functions are `byteCommand`, and the two length bytes read back as `L - 1`. -/
theorem byteLengthRule : Obligations.ByteLengthRule := by
  refine fun p => ⟨fun hbad => ?_, fun h1 h2 => ?_⟩
  · have herror := byteCommand_of_not_payloadOk ((payloadOk_eq_false_iff p).mpr hbad)
    exact ⟨herror _ _, herror _ _, herror _ _, herror _ _⟩
  · have hok := byteCommand_of_payloadOk ((payloadOk_iff p).mpr ⟨h1, h2⟩)
    exact ⟨lo8 (p.length - 1), hi8 (p.length - 1), u16_lo8_hi8 (by omega), hok _ _, hok _ _, hok _ _, hok _ _⟩

/-- Settles O7: the two functions are `bitCommand`, and a count less one fits its byte. -/
theorem bitLengthRule : Obligations.BitLengthRule := by
  refine fun n data => ⟨fun hbad => ?_, fun h1 h2 => ?_⟩
  · have herror := bitCommand_of_not_bitCountOk ((bitCountOk_eq_false_iff n).mpr hbad)
    exact ⟨herror _ _ _, herror _ _ _⟩
  · have hok := bitCommand_of_bitCountOk ((bitCountOk_iff n).mpr ⟨h1, h2⟩)
    have hfits : n - 1 < 2 ^ 8 := by omega
    exact ⟨lo8 (n - 1), Nat.mod_eq_of_lt hfits, ⟨[data], hok _ _ _⟩, hok _ _ _⟩

/-- Settles O9: none of the four has a shadow or a capability, and the payload length alone decides. -/
theorem byteCommandsAppendTheirBytes : Obligations.ByteCommandsAppendTheirBytes := by
  refine fun s p hs => ⟨fun h1 h2 => ?_, fun hbad => ?_⟩
  · have hp : payloadOk p = true := (payloadOk_iff p).mpr ⟨h1, h2⟩
    exact ⟨exec_of_wellFormed hs rfl rfl hp, exec_of_wellFormed hs rfl rfl hp, exec_of_wellFormed hs rfl rfl hp,
      exec_of_wellFormed hs rfl rfl hp⟩
  · have herror (op : Byte) (expected : Nat) :=
      congrArg some (byteCommand_of_not_payloadOk ((payloadOk_eq_false_iff p).mpr hbad) op expected)
    exact ⟨exec_of_encodingError hs rfl (herror _ _), exec_of_encodingError hs rfl (herror _ _),
      exec_of_encodingError hs rfl (herror _ _), exec_of_encodingError hs rfl (herror _ _)⟩

/-- Settles O10: neither of the two has a shadow or a capability, and the count alone decides. -/
theorem bitCommandsAppendTheirBytes : Obligations.BitCommandsAppendTheirBytes := by
  refine fun s n data hs => ⟨fun h1 h2 => ?_, fun hbad => ?_⟩
  · have hn : bitCountOk n = true := (bitCountOk_iff n).mpr ⟨h1, h2⟩
    exact ⟨exec_of_wellFormed hs rfl rfl hn, exec_of_wellFormed hs rfl rfl hn⟩
  · have herror (op : Byte) (operands : List Byte) (expected : Nat) :=
      congrArg some (bitCommand_of_not_bitCountOk ((bitCountOk_eq_false_iff n).mpr hbad) op operands expected)
    exact ⟨exec_of_encodingError hs rfl (herror _ _ _), exec_of_encodingError hs rfl (herror _ _ _)⟩

/-- Settles O11: every operand of the four is in range, and none has a shadow. -/
theorem bankCommandsAppendTheirBytes : Obligations.BankCommandsAppendTheirBytes := fun _ _ _ hs =>
  ⟨exec_of_wellFormed hs rfl rfl rfl, exec_of_wellFormed hs rfl rfl rfl, exec_of_wellFormed hs rfl rfl rfl,
    exec_of_wellFormed hs rfl rfl rfl⟩

/-- Settles O12: one fragment of one byte that expects no response, and no shadow. -/
theorem sendImmediateAppendsItsByte : Obligations.SendImmediateAppendsItsByte := fun _ hs =>
  exec_of_wellFormed hs rfl rfl rfl

/-- Settles O13: `Shadow.record` of the two commands, and the divisor's bytes as the fields of its bits. -/
theorem clockAndLoopbackWriteTheirShadows : Obligations.ClockAndLoopbackWriteTheirShadows := by
  refine fun s divisor hs => ⟨?_, exec_of_wellFormed hs rfl rfl rfl⟩
  rw [← lo8_toNat_eq_extractLsb', ← hi8_toNat_eq_extractLsb']
  exact exec_of_wellFormed hs rfl rfl rfl

/-- Settles O14: the capability is the command's own flag, which decides between its effect and its refusal. -/
theorem gatedCommandsNeedTheirCapability : Obligations.GatedCommandsNeedTheirCapability := fun _ _ _ hs =>
  ⟨fun ha => exec_of_wellFormed hs ha rfl rfl, fun ha => exec_of_wellFormed hs ha rfl rfl,
    fun ha => exec_of_wellFormed hs ha rfl rfl, fun ha => exec_of_not_available hs ha,
    fun ha => exec_of_not_available hs ha, fun ha => exec_of_not_available hs ha⟩

/-- Settles O24: the call replies with what the encoder function returns, which O8's lemmas say for every command. -/
theorem encoderCallChangesNothing : Obligations.EncoderCallChangesNothing := by
  refine fun s i hs hi ha => ⟨fun hw => encodeOp_of_ok hs ha (encoderOf_of_wellFormed hi hw), fun hw => ?_⟩
  obtain ⟨n, hn⟩ := encoderOf_of_not_wellFormed hw
  exact ⟨n, hn, encodeOp_of_error hs ha hn⟩

end Sys2Proof.Machine

/-! PROOFS. The buffer (42_buffer_executor.md): what a direct `enqueue` appends (R160), how the slices of a response lie in
it (R163), what a flush writes, reads and leaves by itself and at the end of every operation that has one (R162, R164, R165,
R166), and that no other operation leaves a response expected (R166). -/

namespace Sys2Proof.Machine

/-! ## The direct `enqueue` (R160) -/

/-- A pendable command can be encoded, is in the interface and is no probe byte (R56, R86, R152). -/
theorem pendable_iff {cap : Capabilities} {i : Instr} :
    pendable cap i = true ↔ i.wellFormed = true ∧ i.available cap = true ∧ i.isProbe = false := by
  simp [pendable, and_assoc]

/-- Whole pendable commands are one fragment, and their shadows are written in order (R123, R160). -/
theorem enqueueRaw_of_pendable {s : State} {is : List Instr} (hs : s.sync = .synced) (hne : is ≠ [])
    (hall : is.all (pendable s.params.cap) = true) (expected : Nat) :
    enqueueRaw s (is.flatMap encode) expected =
      .next ((s.recordAll is).withFragment (is.flatMap encode) expected) := by
  have hp (i : Instr) (hi : i ∈ is) := pendable_iff.mp (List.all_eq_true.mp hall i hi)
  have hdecode : decodeStream (is.flatMap encode) = some is := decodeStream_flatMap_encode fun i hi => (hp i hi).1
  have hformed : ¬ (is.isEmpty || is.any Instr.isProbe) = true := by simpa [hne] using fun i hi => (hp i hi).2.2
  have havailable : is.all (Instr.available s.params.cap) = true := List.all_eq_true.mpr fun i hi => (hp i hi).2.1
  simp only [enqueueRaw, whenSynced_synced hs, hdecode, if_neg hformed, whenCapable, havailable, if_true]
  rfl

/-! ## The slices of a response (R163) -/

/-- The first fragment owns the first bytes. -/
theorem slice_cons_zero (e : Nat) (lens : List Nat) (resp : List Byte) : slice (e :: lens) resp 0 = resp.take e := rfl

/-- A later fragment owns what it owns of the bytes after the first fragment's. -/
theorem slice_cons_succ (e : Nat) (lens : List Nat) (resp : List Byte) (k : Nat) :
    slice (e :: lens) resp (k + 1) = slice lens (resp.drop e) k := by
  simp [slice]

/-- A fragment's bytes are all there, when the response has the length of all fragments. -/
theorem length_slice {lens : List Nat} {resp : List Byte} (h : resp.length = lens.sum) {k : Nat} (hk : k < lens.length) :
    (slice lens resp k).length = lens[k] := by
  have hsum : (lens.take k).sum + lens[k] + (lens.drop (k + 1)).sum = lens.sum := by
    rw [← List.sum_take_succ lens k hk, List.sum_take_add_sum_drop]
  rw [slice, List.getD_eq_getElem _ _ hk, List.length_take, List.length_drop]
  omega

/-- A fragment's bytes follow those of the fragments before it. -/
theorem getElem?_slice (lens : List Nat) (resp : List Byte) {k j : Nat} (hk : k < lens.length) (hj : j < lens[k]) :
    (slice lens resp k)[j]? = resp[(lens.take k).sum + j]? := by
  rw [slice, List.getD_eq_getElem _ _ hk, List.getElem?_take_of_lt hj, List.getElem?_drop]

/-- The slices in enqueue order are the response. -/
theorem flatMap_slice {lens : List Nat} {resp : List Byte} (h : resp.length = lens.sum) :
    (List.range lens.length).flatMap (slice lens resp) = resp := by
  induction lens generalizing resp with
  | nil => exact (List.eq_nil_of_length_eq_zero h).symm
  | cons e lens ih =>
    have hrest : (resp.drop e).length = lens.sum := by
      rw [List.length_drop, h, List.sum_cons, Nat.add_sub_cancel_left]
    rw [List.length_cons, List.range_succ_eq_map, List.flatMap_cons, List.flatMap_map, slice_cons_zero]
    simp only [slice_cons_succ]
    rw [ih hrest, List.take_append_drop]

/-! ## A flush by itself (R162, R164, R165) -/

/-- The write fails when the transport refuses it or takes another number of bytes (R165). -/
theorem State.takesWrite_iff (s : State) :
    s.takesWrite ↔ ¬ (s.answer.ok = false ∨ s.answer.count ≠ s.txbuf.length) := by
  simp [State.takesWrite]

/-- The read fails when the transport refuses it or returns too few bytes (R165). -/
theorem State.servesRead_iff (s : State) :
    s.servesRead ↔ ¬ ((s.afterCall (.write s.txbuf)).answer.ok = false ∨
      (s.afterCall (.write s.txbuf)).answer.bytes.length < s.rxexp.sum) := by
  simp [State.servesRead]

/-- An empty buffer needs no call (R164 (a)). -/
theorem State.flush_empty {s : State} (hb : s.txbuf = []) : s.flush = (.ok [], { s with rxexp := [] }) :=
  if_pos hb

/-- A write that fails or is short ends the flush before the read (R165). -/
theorem State.flush_write_fails {s : State} {w : Answer} {rest : List Answer} (hb : s.txbuf ≠ [])
    (ha : s.answers = w :: rest) (hw : w.ok = false ∨ w.count ≠ s.txbuf.length) :
    s.flush = (.error (.transportError .write), { s with answers := rest, calls := s.calls ++ [.write s.txbuf] }) := by
  have hfail : ¬ (w.ok = true ∧ w.count = s.txbuf.length) := by simpa [imp_iff_not_or] using hw
  rw [State.flush, if_neg hb, State.transportWrite_eq, State.answer_of_answers ha, if_neg hfail, andThen_error,
    State.afterCall_of_answers ha]

/-- A read that fails or is short is the error of the flush (R165). -/
theorem State.flush_read_fails {s : State} {w r : Answer} {rest : List Answer} (hb : s.txbuf ≠ [])
    (hn : s.rxexp.sum ≠ 0) (ha : s.answers = w :: r :: rest) (hw : w.ok = true) (hc : w.count = s.txbuf.length)
    (hr : r.ok = false ∨ r.bytes.length < s.rxexp.sum) :
    s.flush = (.error (.transportError .read),
      { s with answers := rest, calls := s.calls ++ [.write s.txbuf, .read s.rxexp.sum] }) := by
  have hafter : (s.afterCall (.write s.txbuf)).answers = r :: rest := by rw [State.afterCall_of_answers ha]
  have hfail : ¬ (r.ok = true ∧ (r.bytes.take s.rxexp.sum).length = s.rxexp.sum) := by
    simpa [imp_iff_not_or] using hr
  rw [State.flush, if_neg hb, State.transportWrite_eq, State.answer_of_answers ha, if_pos ⟨hw, hc⟩, andThen_ok,
    if_neg hn, State.transportRead_eq, State.answer_of_answers hafter, if_neg hfail, andThen_error,
    State.afterCall_of_answers hafter, State.afterCall_of_answers ha]
  simp

/-- A direct flush returns the response of its flush, or takes its error (R162). -/
theorem perform_flush {s : State} (hs : s.sync = .synced) :
    perform .flush s = .next (finish s.flush fun resp t => t.reply (.bytes resp)) :=
  whenSynced_synced hs _

/-! ## What holds of the next state -/

/-- An outcome that is a next state is one of which `P` holds. -/
def Leaves (P : State → Prop) (out : Result) : Prop := ∀ t, out = .next t → P t

namespace Leaves

variable {P : State → Prop} {s : State}

theorem next {t : State} (h : P t) : Leaves P (.next t) := by
  rintro _ ⟨⟩
  exact h

theorem refused (reason : Refusal) : Leaves P (.refused reason) := fun _ h => nomatch h

theorem whenSynced {body : Result} (h : Leaves P body) : Leaves P (whenSynced s body) :=
  fun t ht => h t (whenSynced_next ht).2

theorem whenCapable {c : Bool} {body : Result} (h : Leaves P body) : Leaves P (whenCapable c body) :=
  fun t ht => h t (whenCapable_next ht).2

theorem whenConfigured {body : SpiConfig → Result} (h : ∀ cfg, Leaves P (body cfg)) :
    Leaves P (whenConfigured s body) := fun t ht => by
  obtain ⟨cfg, _, hb⟩ := whenConfigured_next ht
  exact h cfg t hb

theorem whenInRange {i : Nat} {body : Result} (he : P (s.raise (.rangeError i))) (h : Leaves P body) :
    Leaves P (whenInRange s i body) := fun t ht => by
  rcases whenInRange_next ht with rfl | hb
  · exact he
  · exact h t hb

end Leaves

/-! ## The operations that end with a flush (R166) -/

/-- The state `u` in which the operation `r` begun in `s` flushes: its own bytes and expected lengths joined the pending
ones, and it made no call and no reply. -/
def Request.Prepares (r : Request) (s u : State) : Prop :=
  ∃ low own lens, u = { s with low := low, txbuf := s.txbuf ++ own, rxexp := s.rxexp ++ lens } ∧
    (own = [] ↔ r.sendsNothing s.params = true) ∧ lens.sum = r.ownResponse

theorem Request.Prepares.results_eq {r : Request} {s u : State} (h : r.Prepares s u) : u.results = s.results := by
  obtain ⟨_, _, _, rfl, _⟩ := h
  rfl

/-- The end of an operation after a flush that succeeded: one reply that is no error, and `fsm` at most. -/
def RepliesAfter (k : List Byte → State → State) : Prop :=
  ∀ resp u, ∃ fsm res, k resp u = (u.setFsm fsm).reply res ∧ ∀ e, res ≠ .error e

/-- The two ways an operation with a flush ends: before it by an `EncodingError`, or with it. -/
inductive Request.FlushEnds (r : Request) (s : State) : State → Prop
  | encodingError (n : Nat) : r.FlushEnds s (s.raise (.encodingError n))
  | flush {u : State} {k : List Byte → State → State} (hu : r.Prepares s u) (hk : RepliesAfter k) :
    r.FlushEnds s (finish u.flush k)

/-! ### Each of them -/

/-- A byte command is encoded or is an `EncodingError` (R121). -/
theorem byteCommand_cases (op : Byte) (p : List Byte) (e : Nat) :
    byteCommand op p e = .error (.encodingError p.length) ∨ byteCommand op p e = .ok (encodePayload op p, e) := by
  cases h : payloadOk p with
  | false => exact .inl (byteCommand_of_not_payloadOk h op e)
  | true => exact .inr (byteCommand_of_payloadOk h op e)

/-- The command of a write expects no response, whatever the mode (R218). -/
theorem spiWriteCommand_eq (mode : SpiMode) (bytes : List Byte) :
    ∃ op, spiWriteCommand mode bytes = byteCommand op bytes 0 := by
  cases mode <;> exact ⟨_, rfl⟩

/-- The command of a `readWrite` expects as many bytes as it sends, whatever the mode (R218). -/
theorem spiReadWriteCommand_eq (mode : SpiMode) (bytes : List Byte) :
    ∃ op, spiReadWriteCommand mode bytes = byteCommand op bytes bytes.length := by
  cases mode <;> exact ⟨_, rfl⟩

/-- The bytes that hold a level of bank `LOW` for `k` commands (R187). -/
def heldLevel (low : RegisterPair) (k : Nat) : List Byte := (List.replicate k [0x80#8, low.value, low.direction]).flatten

theorem heldLevel_eq_nil_iff (low : RegisterPair) (k : Nat) : heldLevel low k = [] ↔ k = 0 := by
  cases k <;> simp [heldLevel, List.replicate_succ]

/-- The first level of `Stop`, held (R192). -/
theorem State.stopBothLow_eq (s : State) : ∃ low, s.stopBothLow = { s with
    low := low
    txbuf := s.txbuf ++ heldLevel low s.params.holdN
    rxexp := s.rxexp ++ List.replicate s.params.holdN 0 } :=
  ⟨_, State.emitLow_eq _ _⟩

/-- A line raised, and the level held (R192). -/
theorem State.raiseLine_eq (s : State) (i : Nat) : ∃ low, s.raiseLine i = { s with
    low := low
    txbuf := s.txbuf ++ heldLevel low s.params.holdN
    rxexp := s.rxexp ++ List.replicate s.params.holdN 0 } :=
  ⟨_, State.emitLow_eq _ _⟩

theorem pinRead_prepares (s : State) (b : Bank) :
    (Request.pinRead b).Prepares s ((s.enqueue (readBitsCommand b)).enqueue Encoder.sendImmediate) :=
  ⟨s.low, _, [1, 0], s.enqueue_read_sendImmediate b, iff_of_false (List.cons_ne_nil _ _) nofun, rfl⟩

theorem flush_prepares (s : State) : Request.flush.Prepares s s :=
  ⟨s.low, [], [], by simp, iff_of_true rfl rfl, rfl⟩

/-- Each of the three levels of `Stop` is held `HOLD_N` times (R192). -/
theorem i2cStop_prepares (s : State) :
    Request.i2cStop.Prepares s ((s.stopBothLow.raiseLine s.params.sclBit).raiseLine s.params.sdaOutBit) := by
  obtain ⟨low, hlow⟩ := s.stopBothLow_eq
  obtain ⟨clock, hclock⟩ := s.stopBothLow.raiseLine_eq s.params.sclBit
  obtain ⟨data, hdata⟩ := (s.stopBothLow.raiseLine s.params.sclBit).raiseLine_eq s.params.sdaOutBit
  let n := s.params.holdN
  refine ⟨data, heldLevel low n ++ heldLevel clock n ++ heldLevel data n, List.replicate (n + n + n) 0, ?_, ?_, ?_⟩
  · rw [hdata, hclock, hlow]
    simp only [List.append_assoc, List.replicate_add, n]
  · simp [heldLevel_eq_nil_iff, Request.sendsNothing, n]
  · simp [Request.ownResponse]

theorem sendCore_prepares {r : Request} {s : State} (hown : r.ownResponse = 1)
    (hsends : r.sendsNothing s.params = false) (b : Byte) : r.Prepares s (s.sendCore b) :=
  ⟨_, _, [0, 0, 0, 1], s.sendCore_eq b, by simp [hsends], hown.symm⟩

theorem sendAll_prepares (s : State) (bytes : List Byte) :
    (Request.i2cSendBytes bytes).Prepares s (s.sendAll bytes) := by
  refine ⟨_, _, _, s.sendAll_eq bytes, ?_, ?_⟩
  · cases bytes <;> simp [Request.sendsNothing, ackedSend]
  · induction bytes with
    | nil => rfl
    | cons b bs ih =>
      have hbs : (bs.flatMap fun _ => [0, 0, 0, 1]).sum = bs.length := ih
      simp [Request.ownResponse, hbs, Nat.add_comm]

theorem receiveCore_prepares (s : State) (ack : Bool) : (Request.i2cReceiveByte ack).Prepares s (s.receiveCore ack) :=
  ⟨_, _, [1, 0, 0, 0, 0], s.receiveCore_eq ack, iff_of_false (List.cons_ne_nil _ _) nofun, rfl⟩

theorem spiTransfer_prepares {r : Request} {s : State} (hsends : r.sendsNothing s.params = false) (cfg : SpiConfig)
    {c : Encoded} (hc : c.1 ≠ []) (hown : c.2 = r.ownResponse) : r.Prepares s (s.spiTransfer cfg c) := by
  cases h : cfg.chipSelectPolicy.activeLevel with
  | none => exact ⟨s.low, c.1, [c.2], s.spiTransfer_manual cfg c h, by simp [hc, hsends], by simp [hown]⟩
  | some level => exact ⟨_, _, [0, c.2, 0], s.spiTransfer_auto cfg c level h, by simp [hsends], by simp [hown]⟩

theorem spiWrite_flushEnds (s : State) (bytes : List Byte) :
    Leaves ((Request.spiWrite bytes).FlushEnds s) (spiWrite s bytes) := by
  refine .whenSynced (.whenConfigured fun cfg => ?_)
  obtain ⟨op, hop⟩ := spiWriteCommand_eq cfg.mode bytes
  rcases byteCommand_cases op bytes 0 with h | h
  · rw [hop, h]
    exact .next (.encodingError _)
  · rw [hop, h]
    exact .next (.flush (spiTransfer_prepares rfl cfg (List.cons_ne_nil _ _) rfl) fun _ u => ⟨u.fsm, _, rfl, nofun⟩)

theorem spiReadWrite_flushEnds (s : State) (bytes : List Byte) :
    Leaves ((Request.spiReadWrite bytes).FlushEnds s) (spiReadWrite s bytes) := by
  refine .whenSynced (.whenConfigured fun cfg => ?_)
  obtain ⟨op, hop⟩ := spiReadWriteCommand_eq cfg.mode bytes
  rcases byteCommand_cases op bytes bytes.length with h | h
  · rw [hop, h]
    exact .next (.encodingError _)
  · rw [hop, h]
    exact .next (.flush (spiTransfer_prepares rfl cfg (List.cons_ne_nil _ _) rfl) fun _ u => ⟨u.fsm, _, rfl, nofun⟩)

/-- Every operation that flushes prepares its bytes, flushes and replies, or ends before by its `EncodingError`. -/
theorem perform_flushEnds {r : Request} (s : State) (hr : r.flushes = true) :
    Leaves (r.FlushEnds s) (perform r s) := by
  cases r with
  | pinRead b => exact .whenSynced (.next (.flush (pinRead_prepares s b) fun _ u => ⟨u.fsm, _, rfl, nofun⟩))
  | flush => exact .whenSynced (.next (.flush (flush_prepares s) fun _ u => ⟨u.fsm, _, rfl, nofun⟩))
  | i2cStop => exact .whenSynced (.next (.flush (i2cStop_prepares s) fun _ _ => ⟨_, _, rfl, nofun⟩))
  | i2cSendDeviceAddrAndCheckAck _ _ | i2cSendByteAndCheckAck _ =>
    exact .whenSynced (.next (.flush (sendCore_prepares rfl rfl _) fun _ _ => ⟨_, _, rfl, nofun⟩))
  | i2cSendBytes bytes => exact .whenSynced (.next (.flush (sendAll_prepares s bytes) fun _ _ => ⟨_, _, rfl, nofun⟩))
  | i2cReceiveByte ack => exact .whenSynced (.next (.flush (receiveCore_prepares s ack) fun _ _ => ⟨_, _, rfl, nofun⟩))
  | spiWrite bytes => exact spiWrite_flushEnds s bytes
  | spiReadWrite bytes => exact spiReadWrite_flushEnds s bytes
  | _ => cases hr

/-! ### What their flush does -/

/-- The two ends of an operation with a flush, by what it replies: success is no error, failure a `TransportError`. -/
theorem finish_flush_reply {u : State} {k : List Byte → State → State} {res : OpResult} (hk : RepliesAfter k)
    (hres : (finish u.flush k).results = u.results ++ [res]) :
    (∃ resp v fsm, u.flush = (.ok resp, v) ∧ finish u.flush k = (v.setFsm fsm).reply res ∧ ∀ e, res ≠ .error e) ∨
    (∃ f v, u.flush = (.error (.transportError f), v) ∧ finish u.flush k = v.raise (.transportError f) ∧
      res = .error (.transportError f)) := by
  rcases finish_flush u k with ⟨resp, v, ⟨_, _, _, _, _, rfl⟩, hf, he⟩ | ⟨f, v, ⟨_, _, _, _, _, rfl⟩, hf, he⟩
  · obtain ⟨fsm, res', hreply, hok⟩ := hk resp _
    rw [hreply] at he
    obtain rfl : res' = res := by simpa [he] using hres
    exact .inl ⟨resp, _, fsm, hf, he, hok⟩
  · have hcause : OpResult.error (.transportError f) = res := by simpa [he] using hres
    exact .inr ⟨f, _, hf, he, hcause.symm⟩

/-- An operation that flushed does not end in an `EncodingError` (R165). -/
theorem ne_encodingError_of_flush {u : State} {k : List Byte → State → State} {res : OpResult} (hk : RepliesAfter k)
    (hres : (finish u.flush k).results = u.results ++ [res]) (n : Nat) : res ≠ .error (.encodingError n) := by
  rcases finish_flush_reply hk hres with ⟨_, _, _, -, -, hok⟩ | ⟨f, _, -, -, rfl⟩
  · exact hok _
  · nofun

theorem OpResult.isFatal_of_ne_error {res : OpResult} (h : ∀ e, res ≠ .error e) : res.isFatal = false := by
  cases res with
  | error e => exact absurd rfl (h e)
  | _ => rfl

/-- The calls and the result `res` of an operation that from `s` on writes `out` and reads `n` bytes (R162, R165). -/
def State.WritesAndReads (s : State) (out : List Byte) (n : Nat) (calls : List TransportCall) (res : OpResult) : Prop :=
  if s.answer.ok = false ∨ s.answer.count ≠ out.length then
    calls = s.calls ++ [.write out] ∧ res = .error (.transportError .write)
  else if n = 0 then calls = s.calls ++ [.write out] ∧ res.isFatal = false
  else calls = s.calls ++ [.write out, .read n] ∧
    if (s.afterCall (.write out)).answer.ok = false ∨ (s.afterCall (.write out)).answer.bytes.length < n then
      res = .error (.transportError .read)
    else res.isFatal = false

/-- A flush at the end of an operation with nothing to send makes no call and does not fail (R164 (a)). -/
theorem finish_flush_empty {u : State} {k : List Byte → State → State} {res : OpResult} (hk : RepliesAfter k)
    (hres : (finish u.flush k).results = u.results ++ [res]) (hb : u.txbuf = []) :
    (finish u.flush k).calls = u.calls ∧ res.isFatal = false := by
  rcases finish_flush_reply hk hres with ⟨resp, v, fsm, hf, he, hok⟩ | ⟨f, v, hf, -, -⟩
  · rw [State.flush_empty hb] at hf
    cases hf
    exact ⟨by rw [he]; rfl, OpResult.isFatal_of_ne_error hok⟩
  · rw [State.flush_empty hb] at hf
    cases hf

/-- A flush at the end of an operation with something to send is one write and, if a response is expected, one read. -/
theorem finish_flush_writesAndReads {u : State} {k : List Byte → State → State} {res : OpResult} (hk : RepliesAfter k)
    (hres : (finish u.flush k).results = u.results ++ [res]) (hb : u.txbuf ≠ []) :
    u.WritesAndReads u.txbuf u.rxexp.sum (finish u.flush k).calls res := by
  rw [State.WritesAndReads]
  rcases finish_flush_reply hk hres with ⟨resp, v, fsm, hf, he, hok⟩ | ⟨f, v, hf, he, rfl⟩
  · have hfatal := OpResult.isFatal_of_ne_error hok
    rw [he]
    rcases State.flush_cases hf with ⟨hb', -, -⟩ | ⟨-, h, -⟩ | ⟨⟨-, hw⟩, hn, -, rfl⟩ | ⟨-, -, h, -⟩ |
      ⟨resp', ⟨-, hw, hr⟩, hn, -, -, rfl⟩
    · exact absurd hb' hb
    · cases h
    · rw [if_neg (u.takesWrite_iff.mp hw), if_pos hn]
      exact ⟨rfl, hfatal⟩
    · cases h
    · rw [if_neg (u.takesWrite_iff.mp hw), if_neg hn, if_neg (u.servesRead_iff.mp hr)]
      exact ⟨List.append_assoc _ _ _, hfatal⟩
  · rw [he, State.raise_calls]
    rcases State.flush_cases hf with ⟨-, h, -⟩ | ⟨⟨-, hw⟩, h, rfl⟩ | ⟨-, -, h, -⟩ | ⟨⟨-, hw, hr⟩, hn, h, rfl⟩ |
      ⟨resp', -, -, h, -, -⟩
    · cases h
    · cases h
      rw [if_pos (u.takesWrite_iff.not_left.mp hw)]
      exact ⟨rfl, rfl⟩
    · cases h
    · cases h
      rw [if_neg (u.takesWrite_iff.mp hw), if_neg hn, if_pos (u.servesRead_iff.not_left.mp hr)]
      exact ⟨List.append_assoc _ _ _, rfl⟩
    · cases h

/-- An operation that flushes writes what was pending and its own bytes, if there are any, and reads what all of them expect. -/
theorem Request.Prepares.finish_flush_calls {r : Request} {s u : State} {k : List Byte → State → State} {res : OpResult}
    (hu : r.Prepares s u) (hk : RepliesAfter k) (hres : (finish u.flush k).results = s.results ++ [res]) :
    if s.txbuf = [] ∧ r.sendsNothing s.params = true then
      (finish u.flush k).calls = s.calls ∧ res.isFatal = false
    else ∃ out, s.txbuf <+: out ∧ out ≠ [] ∧ (r.sendsNothing s.params = true → out = s.txbuf) ∧
      s.WritesAndReads out (s.rxexp.sum + r.ownResponse) (finish u.flush k).calls res := by
  obtain ⟨low, own, lens, rfl, hown, hlens⟩ := hu
  have hsends : s.txbuf ++ own = [] ↔ s.txbuf = [] ∧ r.sendsNothing s.params = true := by
    rw [List.append_eq_nil_iff, hown]
  by_cases hb : s.txbuf ++ own = []
  · rw [if_pos (hsends.mp hb)]
    exact finish_flush_empty hk hres hb
  · rw [if_neg (mt hsends.mpr hb), ← hlens, ← List.sum_append]
    exact ⟨s.txbuf ++ own, ⟨own, rfl⟩, hb, fun hn => by rw [hown.mpr hn, List.append_nil],
      finish_flush_writesAndReads hk hres hb⟩

/-- A flush at the end of an operation empties both buffers, whether it succeeds or is a `TransportError` (R162, R244). -/
theorem finish_flush_buffers (u : State) {k : List Byte → State → State} (hk : RepliesAfter k) :
    (finish u.flush k).txbuf = [] ∧ (finish u.flush k).rxexp = [] := by
  rcases finish_flush u k with ⟨resp, v, -, hf, he⟩ | ⟨f, v, -, -, he⟩
  · obtain ⟨htx, hrx, -⟩ := State.flush_outbound hf
    obtain ⟨fsm, res, hreply, -⟩ := hk resp v
    rw [he, hreply]
    exact ⟨htx, hrx⟩
  · rw [he]
    exact ⟨rfl, rfl⟩

/-! ## No response expected (R166) -/

namespace State.nothingExpected

variable {s t : State}

theorem of_rxexp_eq (h : s.nothingExpected) (ht : t.rxexp = s.rxexp) : t.nothingExpected := by
  rwa [State.nothingExpected, ht]

theorem of_rxexp_nil (ht : t.rxexp = []) : t.nothingExpected := by
  simp [State.nothingExpected, ht]

/-- Fragments that expect nothing leave nothing expected. -/
theorem append_zeros (h : s.nothingExpected) {k : Nat} (ht : t.rxexp = s.rxexp ++ List.replicate k 0) :
    t.nothingExpected := by
  intro e he
  rw [ht, List.mem_append] at he
  exact he.elim (h e) List.eq_of_mem_replicate

theorem setPin (h : s.nothingExpected) (p : PinReg) (v : Byte) : (s.setPin p v).nothingExpected :=
  h.of_rxexp_eq (State.setPin_rxexp s p v)

theorem emitLow (h : s.nothingExpected) (k : Nat) : (s.emitLow k).nothingExpected :=
  h.append_zeros (k := k) (by rw [State.emitLow_eq])

theorem dropLine (h : s.nothingExpected) (i : Nat) : (s.dropLine i).nothingExpected := (h.setPin _ _).emitLow _

theorem startBothHigh (h : s.nothingExpected) : s.startBothHigh.nothingExpected :=
  ((h.setPin _ _).setPin _ _).emitLow _

/-- An error leaves the buffer as it was, or empty (R241 to R244). -/
theorem raise (h : s.nothingExpected) (e : OpError) : (s.raise e).nothingExpected := by
  rw [State.raise_eq]
  split
  · exact of_rxexp_nil rfl
  · exact h.of_rxexp_eq rfl

end State.nothingExpected

/-! ### The operations that neither flush nor enqueue what the caller names -/

section NothingExpected

variable {s : State} (h : s.nothingExpected)
include h

theorem updatePin_nothingExpected (p : PinReg) (v : Byte) : Leaves State.nothingExpected (updatePin s p v) :=
  .next ((h.setPin p v).of_rxexp_eq rfl)

theorem pinMask_nothingExpected (p : PinReg) (bits : List (Option Bool)) :
    Leaves State.nothingExpected (pinMask s p bits) := by
  rw [pinMask]
  split
  · exact .next (h.raise _)
  · exact updatePin_nothingExpected h p _

theorem pinWrite_nothingExpected (b : Bank) : Leaves State.nothingExpected (pinWrite s b) := by
  refine .whenSynced (.next (h.append_zeros (k := 1) ?_))
  cases b <;> rfl

theorem encodeOp_nothingExpected (i : Instr) : Leaves State.nothingExpected (encodeOp s i) := by
  refine .whenSynced ?_
  split
  · exact .refused _
  · refine .whenCapable ?_
    split
    · exact .next (h.of_rxexp_eq rfl)
    · exact .next (h.raise _)

theorem i2cStart_nothingExpected : Leaves State.nothingExpected (i2cStart s) :=
  .whenSynced (.next (((h.startBothHigh.dropLine _).dropLine _).of_rxexp_eq rfl))

theorem spiConfigure_nothingExpected (cfg : SpiConfig) : Leaves State.nothingExpected (spiConfigure s cfg) := by
  refine .whenSynced ?_
  split
  · exact .next (h.raise _)
  · have hcfg : ({ s with spiCfg := some cfg } : State).nothingExpected := h
    exact .next ((((hcfg.setPin _ _).setPin _ _).emitLow 1).of_rxexp_eq rfl)

theorem bringUpOp_nothingExpected (c : BringUpCall) : Leaves State.nothingExpected (bringUpOp s c) := by
  have hcall : (s.afterCall (.bringUp c)).nothingExpected := h
  rw [bringUpOp, State.transportBringUp]
  split
  · exact .next (hcall.of_rxexp_eq rfl)
  · exact .next (hcall.raise _)

end NothingExpected

/-- A handshake begins by emptying the buffers (R179). -/
theorem syncHandshake_nothingExpected (s : State) : Leaves State.nothingExpected (syncHandshake s) := by
  rcases syncHandshake_cases s with ⟨t, ⟨_, _, _, rfl⟩, he⟩ | ⟨e, f, t, _, ⟨_, _, _, rfl⟩, he⟩
  · rw [he]
    exact .next (.of_rxexp_nil rfl)
  · rw [he]
    exact .next (State.nothingExpected.raise (.of_rxexp_nil rfl) e)

theorem perform_nothingExpected {r : Request} {s : State} (hr : r.isDirectEnqueue = false) (h : s.nothingExpected) :
    Leaves State.nothingExpected (perform r s) := by
  cases hf : r.flushes with
  | true =>
    intro t ht
    cases perform_flushEnds s hf t ht with
    | encodingError n => exact h.raise _
    | flush _ hk => exact .of_rxexp_nil (finish_flush_buffers _ hk).2
  | false =>
    cases r with
    | setBit p _ | unsetBit p _ | toggleBit p _ => exact .whenInRange (h.raise _) (updatePin_nothingExpected h p _)
    | isSet _ _ => exact .whenInRange (h.raise _) (.next (h.of_rxexp_eq rfl))
    | mask p bits => exact pinMask_nothingExpected h p bits
    | fromByte p v => exact updatePin_nothingExpected h p v
    | toByte _ => exact .next (h.of_rxexp_eq rfl)
    | pinWrite b => exact pinWrite_nothingExpected h b
    | encodeOnly i => exact encodeOp_nothingExpected h i
    | syncHandshake => exact syncHandshake_nothingExpected s
    | i2cStart => exact i2cStart_nothingExpected h
    | spiConfigure cfg => exact spiConfigure_nothingExpected h cfg
    | bringUp c => exact bringUpOp_nothingExpected h c
    | wire _ | enqueue _ _ => cases hr
    | _ => cases hf

/-! ## The obligations -/

/-- Settles O23: `enqueueRaw_of_pendable` for several commands, and for one with the shadow its own operation leaves. -/
theorem directEnqueueAppendsOneFragment : Obligations.DirectEnqueueAppendsOneFragment := by
  refine ⟨fun s is expected hs hne hall => enqueueRaw_of_pendable hs hne hall expected, fun s i expected hs hi => ?_,
    fun c divisor lowMask highMask => ⟨rfl, rfl, rfl, rfl, rfl⟩⟩
  obtain ⟨hw, ha, hp⟩ := pendable_iff.mp hi
  have hone := enqueueRaw_of_pendable hs (List.cons_ne_nil i []) (by simp [hi]) expected
  rw [List.flatMap_singleton] at hone
  exact ⟨_, exec_of_wellFormed hs ha hp hw, rfl, hone⟩

/-- Settles O26: length and place of one slice, and all slices by induction on the fragments. -/
theorem slicesPartitionTheResponse : Obligations.SlicesPartitionTheResponse := fun lens resp h =>
  ⟨fun _ hk => ⟨length_slice h hk, fun _ hj => getElem?_slice lens resp hk hj⟩, flatMap_slice h⟩

/-- Settles O25: the five ends of a flush by itself, and the two of an operation that ends with one (`perform_flushEnds`), by
an `EncodingError` or by its flush (`Request.Prepares.finish_flush_calls`). -/
theorem flushWritesOnceAndReadsTheSum : Obligations.FlushWritesOnceAndReadsTheSum := by
  refine ⟨fun s hs => ?_, fun r s t res hr h hres => ?_⟩
  · rw [perform_flush hs]
    refine ⟨fun hb => ?_, fun hb w rest ha => ⟨fun hw => ?_, fun hw hc => ⟨fun hn => ?_, fun hn r rest' hrest => ?_⟩⟩⟩
    · rw [State.flush_empty hb]
      rfl
    · rw [State.flush_write_fails hb ha hw]
      rfl
    · rw [State.flush_write hb hn ha hw hc]
      rfl
    · subst hrest
      refine ⟨fun hr => ?_, fun hr hl => ?_⟩
      · rw [State.flush_read_fails hb hn ha hw hc hr]
        rfl
      · rw [State.flush_read hb hn ha hw hc hr rfl (List.length_take_of_le hl)]
        rfl
  · cases perform_flushEnds s hr t h with
    | encodingError n =>
      have herror : OpResult.error (.encodingError n) = res := by simpa using hres
      exact ⟨fun _ => State.raise_calls _ _, fun hne => absurd herror.symm (hne n)⟩
    | flush hu hk =>
      exact ⟨fun ⟨n, hn⟩ => absurd hn (ne_encodingError_of_flush hk (hres.trans (by rw [hu.results_eq])) n),
        fun _ => hu.finish_flush_calls hk hres⟩

/-- Settles O57: an operation that flushes empties the buffers (`finish_flush_buffers`), and any other appends fragments that
expect nothing (`perform_nothingExpected`). -/
theorem nothingIsExpectedBetweenOperations : Obligations.NothingIsExpectedBetweenOperations := by
  refine fun r s t res h hres => ⟨fun hr hne => ?_, fun hr hs => perform_nothingExpected hr hs t h⟩
  cases perform_flushEnds s hr t h with
  | encodingError n =>
    have herror : OpResult.error (.encodingError n) = res := by simpa using hres
    exact absurd herror.symm (hne n)
  | flush _ hk => exact finish_flush_buffers _ hk

end Sys2Proof.Machine

/-! PROOFS. The handshake (43_sync_handshake.md): the ways a probe round fails (R177, R178), the fatal state it leaves (R243,
R244), and the three ends of a handshake (R179). -/

namespace Sys2Proof.Machine

/-! ## A fatal error (R243, R244) -/

theorem State.raise_eq_withFatal {s : State} {e : OpError} {f : FatalError} (h : e.fatal = some f) :
    s.raise e = s.withFatal f e := State.raise_fatal h

/-! ## A probe round that fails (R177, R178) -/

section ProbeRound

variable {s : State} {x : Byte} {w p r : Answer} {zeros rest : List Answer}

/-- A served round whose reply lacks the echo fails with the bytes read. -/
theorem State.probe_unechoed {reply : List Byte} (h : servedProbe s.params.syncPollLimit zeros reply s.answers rest)
    (hecho : ¬ ∃ before after, reply = before ++ [0xFA#8, x] ++ after) :
    s.probe x = (.error (.syncError x (some reply)), { s with
      answers := rest, calls := s.calls ++ probeCalls x (zeros.length + 1) reply.length }) := by
  rw [State.probe_served h, if_neg (fun hf => hecho ((echoFound_iff x reply).mp hf))]

theorem State.probe_write_fails (ha : s.answers = w :: rest) (hw : w.ok = false ∨ w.count ≠ 1) :
    s.probe x = (.error (.transportError .write), { s with answers := rest, calls := s.calls ++ [.write [x]] }) := by
  have hn : ¬ (w.ok = true ∧ w.count = [x].length) := by
    rintro ⟨ho, hc⟩
    rcases hw with hf | hne
    · exact absurd ho (by simp [hf])
    · exact hne hc
  rw [State.probe, State.transportWrite_eq, State.answer_of_answers ha, if_neg hn, andThen_error,
    State.afterCall_of_answers ha]

/-- Once the transport has taken the byte, the round is its polls and the check of the echo. -/
theorem State.probe_of_written (ha : s.answers = w :: rest) (hw : w.ok = true) (hc : w.count = 1) :
    s.probe x = andThen (State.poll { s with answers := rest, calls := s.calls ++ [.write [x]] } s.params.syncPollLimit)
      fun n t => t.checkEcho x n := by
  rw [State.probe, State.transportWrite_eq, State.answer_of_answers ha, if_pos ⟨hw, hc⟩, andThen_ok,
    State.afterCall_of_answers ha]

theorem State.probe_silence (ha : s.answers = w :: (zeros ++ rest)) (hs : silentSoFar w zeros)
    (hl : zeros.length = s.params.syncPollLimit) :
    s.probe x = (.error (.syncError x none), { s with
      answers := rest, calls := s.calls ++ (.write [x] :: List.replicate s.params.syncPollLimit .bytesAvailable) }) := by
  obtain ⟨hw, hc, hz⟩ := hs
  rw [State.probe_of_written ha hw hc, State.poll_silence hz hl rfl, andThen_ok, State.checkEcho, if_pos rfl]
  simp

theorem State.probe_poll_fails (ha : s.answers = w :: (zeros ++ p :: rest)) (hs : silentSoFar w zeros)
    (hl : zeros.length < s.params.syncPollLimit) (hp : p.ok = false) :
    s.probe x = (.error (.transportError .status), { s with
      answers := rest, calls := s.calls ++ (.write [x] :: List.replicate (zeros.length + 1) .bytesAvailable) }) := by
  obtain ⟨hw, hc, hz⟩ := hs
  rw [State.probe_of_written ha hw hc, State.poll_failed hz hp hl rfl, andThen_error]
  simp

theorem State.probe_read_fails (ha : s.answers = w :: (zeros ++ p :: r :: rest)) (hs : silentSoFar w zeros)
    (hl : zeros.length < s.params.syncPollLimit) (hp : p.ok = true) (hpc : p.count ≠ 0)
    (hr : r.ok = false ∨ r.bytes.length < p.count) :
    s.probe x = (.error (.transportError .read), { s with
      answers := rest, calls := s.calls ++ probeCalls x (zeros.length + 1) p.count }) := by
  obtain ⟨hw, hc, hz⟩ := hs
  have hn : ¬ (r.ok = true ∧ (r.bytes.take p.count).length = p.count) := by
    rintro ⟨ho, hlen⟩
    rcases hr with hf | hlt
    · exact absurd ho (by simp [hf])
    · rw [List.length_take] at hlen
      omega
  rw [State.probe_of_written ha hw hc, State.poll_scripted hz hp hpc hl rfl, andThen_ok, State.checkEcho, if_neg hpc,
    State.transportRead_eq, State.answer_of_answers rfl, if_neg hn, andThen_error, State.afterCall_of_answers rfl]
  simp [probeCalls]

/-- A failed round, as a step of its own, leaves the fatal state (R243, R244). -/
theorem exec_of_probe_failed {i : Instr} {t : State} {e : OpError} {f : FatalError}
    (hi : (i = .syncProbe1 ∧ x = 0xAA#8 ∧ s.handshake = some .first) ∨
      (i = .syncProbe2 ∧ x = 0xAB#8 ∧ s.handshake = some .second))
    (hp : s.probe x = (.error e, t)) (hf : e.fatal = some f) : exec i s = .next (t.withFatal f e) := by
  rcases hi with ⟨rfl, rfl, hround⟩ | ⟨rfl, rfl, hround⟩
  · rw [exec, execSyncProbe1, whenRound_of_round hround, Config.syncByte1, hp, finish_error, State.raise_eq_withFatal hf]
  · rw [exec, execSyncProbe2, whenRound_of_round hround, Config.syncByte2, hp, finish_error, State.raise_eq_withFatal hf]

end ProbeRound

/-! ## What a probe round puts on the wire (R177) -/

theorem wireStream_replicate_bytesAvailable (j : Nat) : wireStream (List.replicate j .bytesAvailable) = [] := by
  induction j with
  | zero => rfl
  | succ j ih => exact ih

/-- However it ends, a round has replied nothing, and has written its byte and nothing else. -/
theorem State.probe_observed {s t : State} {x : Byte} {out : Except OpError Unit} (h : s.probe x = (out, t)) :
    t.results = s.results ∧ wireStream t.calls = wireStream s.calls ++ [x] := by
  have hres := (s.probe_makesCalls x).results
  obtain ⟨_, j, _, last, hlast, hcalls⟩ := s.probe_calls x
  rw [h] at hres hcalls
  have hread : wireStream last = [] := by
    rcases hlast with rfl | ⟨n, rfl⟩ <;> rfl
  refine ⟨hres, ?_⟩
  rw [hcalls, wireStream_append, wireStream, wireStream_append, wireStream_replicate_bytesAvailable, hread]
  rfl

/-! ## The three ends of a handshake (R179) -/

section Ends

variable {s t u : State} {e : OpError}

theorem syncHandshake_first_failed (h : s.beginHandshake.probe 0xAA#8 = (.error e, t)) :
    syncHandshake s = .next (t.raise e) := by
  rw [syncHandshake_eq, Config.syncByte1, h, andThen_error, finish_error]

theorem syncHandshake_second_failed (h1 : s.beginHandshake.probe 0xAA#8 = (.ok (), u))
    (h2 : (u.setRound .second).probe 0xAB#8 = (.error e, t)) : syncHandshake s = .next (t.raise e) := by
  rw [syncHandshake_eq, Config.syncByte1, h1, andThen_ok, Config.syncByte2, h2, finish_error]

theorem syncHandshake_passed (h1 : s.beginHandshake.probe 0xAA#8 = (.ok (), u))
    (h2 : (u.setRound .second).probe 0xAB#8 = (.ok (), t)) : syncHandshake s = .next (t.establishSync.reply .done) := by
  rw [syncHandshake_eq, Config.syncByte1, h1, andThen_ok, Config.syncByte2, h2, finish_ok]

end Ends

/-! ## The obligations -/

/-- Settles O27: each round passes (`State.probe_echoed`), the second from the state the first leaves. -/
theorem handshakeSucceedsOnBothEchoes : Obligations.HandshakeSucceedsOnBothEchoes := by
  intro s zeros1 zeros2 between rest b1 a1 b2 a2 hfirst hsecond
  have h1 := State.probe_echoed (s := s.beginHandshake) hfirst
  refine (syncHandshake_passed h1 (State.probe_echoed hsecond)).trans ?_
  simp [State.establishSync, State.reply, State.beginHandshake, State.setRound, State.clearBuffers]

/-- Settles O28: the first round meets silence (`State.probe_silence`), and its error ends the handshake. -/
theorem handshakeAgainstSilenceIsASyncError : Obligations.HandshakeAgainstSilenceIsASyncError := by
  intro s w zeros rest ha hw hc hl hz
  exact syncHandshake_first_failed (State.probe_silence (s := s.beginHandshake) ha ⟨hw, hc, hz⟩ hl)

/-- Settles O29: a handshake that fails replies with the error of the failed round, and each round made has written its byte
(`State.probe_observed`). -/
theorem failedFirstRoundEndsTheHandshake : Obligations.FailedFirstRoundEndsTheHandshake := by
  refine ⟨fun s t e he h => ?first, fun s t u e hpass he h => ?second⟩
  case first =>
    have hfail : s.beginHandshake.probe 0xAA#8 = (.error e, _) := Prod.ext he rfl
    obtain ⟨hres, hwire⟩ := State.probe_observed hfail
    cases (syncHandshake_first_failed hfail).symm.trans h
    rw [State.raise_results, State.raise_calls, hres, hwire]
    exact ⟨rfl, rfl⟩
  case second =>
    have hfail : (u.setRound .second).probe 0xAB#8 = (.error e, _) := Prod.ext he rfl
    obtain ⟨hres1, hwire1⟩ := State.probe_observed hpass
    obtain ⟨hres2, hwire2⟩ := State.probe_observed hfail
    cases (syncHandshake_second_failed hpass hfail).symm.trans h
    rw [State.raise_results, State.raise_calls, hres2, hwire2, State.setRound_results, State.setRound_calls, hres1, hwire1,
      List.append_assoc]
    exact ⟨rfl, rfl⟩

/-- Settles O16: one lemma for each way the round fails; every error is fatal (`exec_of_probe_failed`). -/
theorem probeRoundWithoutItsEchoIsFatal : Obligations.ProbeRoundWithoutItsEchoIsFatal := by
  intro s i x hi
  refine ⟨fun zeros rest reply hserved hecho => ?unechoed, fun w rest ha hw => ?write, fun w zeros rest ha hs =>
    ⟨fun hl => ?silence, fun hl p rest' hrest => ⟨fun hp => ?poll, fun hp hpc r rest'' hrest' hr => ?read⟩⟩⟩
  case unechoed => exact exec_of_probe_failed hi (State.probe_unechoed hserved hecho) rfl
  case write => exact exec_of_probe_failed hi (State.probe_write_fails ha hw) rfl
  case silence =>
    rw [hl]
    exact exec_of_probe_failed hi (State.probe_silence ha hs hl) rfl
  case poll =>
    subst hrest
    exact exec_of_probe_failed hi (State.probe_poll_fails ha hs hl hp) rfl
  case read =>
    subst hrest hrest'
    exact exec_of_probe_failed hi (State.probe_read_fails ha hs hl hp hpc hr) rfl

end Sys2Proof.Machine

/-! PROOFS. The I2C operations (44_i2c.md): the levels of `Start` and `Stop` (R190, R192), the sends and the receive against
a transport that serves them (R193 to R200), what they leave of bank `LOW` (R185), and `fsm` (R206). -/

namespace Sys2Proof.Machine

/-! ## Levels held (R187, R190, R192) -/

/-- Bank `LOW` written with `low`, and that level held `HOLD_N` times (R187). -/
def State.holdLow (s : State) (low : RegisterPair) : State :=
  { s with
    low := low
    txbuf := s.txbuf ++ heldLevel low s.params.holdN
    rxexp := s.rxexp ++ List.replicate s.params.holdN 0 }

/-- Bank `LOW` in the first level of `Start` (R190). -/
def RegisterPair.startBothHigh (low : RegisterPair) (p : Params) : RegisterPair where
  value := setBit (setBit low.value p.sclBit) p.sdaOutBit
  direction := unsetBit (setBit (setBit low.direction p.sclBit) p.sdaOutBit) p.sdaInBit

/-- Bank `LOW` in the first level of `Stop` (R192). -/
def RegisterPair.stopBothLow (low : RegisterPair) (p : Params) : RegisterPair where
  value := unsetBit (unsetBit low.value p.sclBit) p.sdaOutBit
  direction := setBit (setBit low.direction p.sclBit) p.sdaOutBit

/-- Bank `LOW` with line `i` high. -/
def RegisterPair.raised (low : RegisterPair) (i : Nat) : RegisterPair := { low with value := setBit low.value i }

/-- Bank `LOW` with line `i` low. -/
def RegisterPair.dropped (low : RegisterPair) (i : Nat) : RegisterPair := { low with value := unsetBit low.value i }

theorem State.startBothHigh_eq_holdLow (s : State) : s.startBothHigh = s.holdLow (s.low.startBothHigh s.params) :=
  State.emitLow_eq _ _

theorem State.stopBothLow_eq_holdLow (s : State) : s.stopBothLow = s.holdLow (s.low.stopBothLow s.params) :=
  State.emitLow_eq _ _

theorem State.raiseLine_eq_holdLow (s : State) (i : Nat) : s.raiseLine i = s.holdLow (s.low.raised i) :=
  State.emitLow_eq _ _

theorem State.dropLine_eq_holdLow (s : State) (i : Nat) : s.dropLine i = s.holdLow (s.low.dropped i) :=
  State.emitLow_eq _ _

/-- Three levels one after the other leave the last one in the registers, and no response expected. -/
theorem State.holdLow_three (s : State) (a b c : RegisterPair) :
    ((s.holdLow a).holdLow b).holdLow c = { s with
      low := c
      txbuf := s.txbuf ++ (heldLevel a s.params.holdN ++ heldLevel b s.params.holdN ++ heldLevel c s.params.holdN)
      rxexp := s.rxexp ++ List.replicate (3 * s.params.holdN) 0 } := by
  have hlens (n : Nat) : 3 * n = n + n + n := by omega
  simp only [State.holdLow, hlens, List.replicate_add, List.append_assoc]

/-- The three levels of `Start` (R190). -/
theorem State.startLevels_eq (s : State) :
    (s.startBothHigh.dropLine s.params.sdaOutBit).dropLine s.params.sclBit =
      let low1 := s.low.startBothHigh s.params
      let low2 := low1.dropped s.params.sdaOutBit
      let low3 := low2.dropped s.params.sclBit
      { s with
        low := low3
        txbuf := s.txbuf ++ (heldLevel low1 s.params.holdN ++ heldLevel low2 s.params.holdN ++
          heldLevel low3 s.params.holdN)
        rxexp := s.rxexp ++ List.replicate (3 * s.params.holdN) 0 } := by
  rw [State.dropLine_eq_holdLow, State.dropLine_eq_holdLow, State.startBothHigh_eq_holdLow]
  exact s.holdLow_three _ _ _

/-- The three levels of `Stop` (R192). -/
theorem State.stopLevels_eq (s : State) :
    (s.stopBothLow.raiseLine s.params.sclBit).raiseLine s.params.sdaOutBit =
      let low1 := s.low.stopBothLow s.params
      let low2 := low1.raised s.params.sclBit
      let low3 := low2.raised s.params.sdaOutBit
      { s with
        low := low3
        txbuf := s.txbuf ++ (heldLevel low1 s.params.holdN ++ heldLevel low2 s.params.holdN ++
          heldLevel low3 s.params.holdN)
        rxexp := s.rxexp ++ List.replicate (3 * s.params.holdN) 0 } := by
  rw [State.raiseLine_eq_holdLow, State.raiseLine_eq_holdLow, State.stopBothLow_eq_holdLow]
  exact s.holdLow_three _ _ _

/-! ## The fragments of a send and of a receive (R193, R198, R200) -/

/-- `SendCore` appends the bytes of R193 in four fragments and releases the data pin. -/
theorem State.sendCore_eq_ackedSend (s : State) (b : Byte) :
    s.sendCore b = { s with
      low := s.low.released s.params
      txbuf := s.txbuf ++ ackedSend s.low s.params.sdaOutBit b
      rxexp := s.rxexp ++ [0, 0, 0, 1] } := by
  rw [State.sendCore_eq, unsetBit_setBit]
  rfl

/-- The fragments of `ReceiveByte` release the data pin (R200). -/
theorem State.receiveCore_eq_released (s : State) (ack : Bool) :
    s.receiveCore ack = { s with
      low := s.low.released s.params
      txbuf := s.txbuf ++ [0x22#8, 0x07#8, 0x80#8, s.low.value, setBit s.low.direction s.params.sdaOutBit,
        0x13#8, 0x00#8, ackByte ack, 0x80#8, s.low.value, unsetBit s.low.direction s.params.sdaOutBit, 0x87#8]
      rxexp := s.rxexp ++ [1, 0, 0, 0, 0] } := by
  rw [State.receiveCore_eq, unsetBit_setBit]
  rfl

/-- Each byte sent expects one response byte, its acknowledge (R198). -/
theorem sum_ackLengths (bytes : List Byte) : (bytes.flatMap fun _ => [0, 0, 0, 1]).sum = bytes.length := by
  induction bytes with
  | nil => rfl
  | cons b bs ih => simp [ih, Nat.add_comm]

/-! ## The response bytes they look at (R163, R202) -/

/-- A 1-byte fragment owns the byte after those of the fragments before it (R163). -/
theorem sliceByte_middle {before : List Nat} {earlier : List Byte} (h : earlier.length = before.sum) (after : List Nat)
    (b : Byte) (later : List Byte) :
    sliceByte (before ++ 1 :: after) (earlier ++ b :: later) before.length = b := by
  have hslice := slice_middle before after 1 earlier [b] later h rfl
  rw [List.append_assoc, List.singleton_append] at hslice
  rw [sliceByte, hslice, List.headD_cons]

/-- The bit-in fragment of a send owns the acknowledge (R193). -/
theorem sliceByte_ackFragment {before : List Nat} {earlier : List Byte} (h : earlier.length = before.sum)
    (after : List Nat) (ack : Byte) (later : List Byte) :
    sliceByte (before ++ 0 :: 0 :: 0 :: 1 :: after) (earlier ++ ack :: later) (ackFragment before.length) = ack := by
  have hslice := sliceByte_middle (before := before ++ [0, 0, 0]) (by simpa using h) after ack later
  simpa [ackFragment] using hslice

theorem ackOf_eq (response : Byte) : ackOf response = (response.getLsbD 0 == false) := (beq_false _).symm

/-- One ACK result per byte sent, in order (R198). -/
theorem ackResults_eq {before : List Nat} {earlier bytes acks : List Byte} (h : earlier.length = before.sum)
    (hacks : acks.length = bytes.length) :
    ackResults (before ++ bytes.flatMap fun _ => [0, 0, 0, 1]) (earlier ++ acks) before.length bytes.length =
      acks.map ackOf := by
  induction bytes generalizing before earlier acks with
  | nil => rw [List.eq_nil_of_length_eq_zero hacks]; rfl
  | cons b bs ih =>
    obtain _ | ⟨a, as⟩ := acks
    · cases hacks
    · have hrest := ih (before := before ++ [0, 0, 0, 1]) (earlier := earlier ++ [a]) (by simp [h]) (Nat.succ.inj hacks)
      rw [List.length_append, List.append_assoc, List.append_assoc] at hrest
      exact congrArg₂ List.cons (congrArg ackOf (sliceByte_ackFragment h _ a as)) hrest

/-! ## An operation whose flush is served (R162) -/

/-- An operation that from `s` on prepared bank `LOW` and the bytes `out`, and whose own fragments expect `n` bytes, goes on
with the response. -/
theorem finish_flush_served {s u : State} {low : RegisterPair} {out resp : List Byte} {lens : List Nat} {n : Nat}
    {rest : List Answer} (hu : u = { s with low := low, txbuf := out, rxexp := s.rxexp ++ lens }) (hn : lens.sum = n)
    (hb : out ≠ []) (h : s.Served out (s.rxexp.sum + n) resp rest) (k : List Byte → State → State) :
    finish u.flush k = k resp { s with
      low := low, txbuf := [], rxexp := [], answers := rest, calls := s.calls ++ flushCalls out (s.rxexp.sum + n) } := by
  have hflush := State.flush_served (s := u) h (by rw [hu]) (by rw [hu, List.sum_append, hn]) (by rw [hu]) hb
  rw [hflush, finish_ok, hu]

/-! ## The send of one byte (R194, R196) -/

section SendOne

variable {s : State} {b : Byte} {rest : List Answer}

/-- A send the transport serves returns the acknowledge (R194, R202). -/
theorem sendOne_served {op : I2cOp} {earlier : List Byte} {response : Byte} (hearlier : earlier.length = s.rxexp.sum)
    (h : s.Served (s.txbuf ++ ackedSend s.low s.params.sdaOutBit b) (s.rxexp.sum + 1) (earlier ++ [response]) rest) :
    sendOne s b op = .next { s with
      low := s.low.released s.params, txbuf := [], rxexp := [], fsm := fsmAfter op, answers := rest
      calls := s.calls ++ [.write (s.txbuf ++ ackedSend s.low s.params.sdaOutBit b), .read (s.rxexp.sum + 1)]
      results := s.results ++ [.flag (response.getLsbD 0 == false)] } := by
  rw [sendOne, finish_flush_served (s.sendCore_eq_ackedSend b) rfl
    (List.append_ne_nil_of_right_ne_nil _ (List.cons_ne_nil _ _)) h, State.sendCore_eq_ackedSend,
    sliceByte_ackFragment hearlier, ackOf_eq]
  rfl

/-- A send whose write the transport does not take is its `TransportError` (R165, R244). -/
theorem sendOne_write_fails {w : Answer} (op : I2cOp) (ha : s.answers = w :: rest)
    (hw : w.ok = false ∨ w.count ≠ (s.txbuf ++ ackedSend s.low s.params.sdaOutBit b).length) :
    sendOne s b op = .next (State.withFatal { s with
      low := s.low.released s.params, answers := rest
      calls := s.calls ++ [.write (s.txbuf ++ ackedSend s.low s.params.sdaOutBit b)] } .transportError
        (.transportError .write)) := by
  have hflush := State.flush_write_fails (s := s.sendCore b) (w := w) (rest := rest)
    (by rw [State.sendCore_eq_ackedSend]; exact List.append_ne_nil_of_right_ne_nil _ (List.cons_ne_nil _ _))
    (by rw [State.sendCore_eq_ackedSend, ha]) (by rw [State.sendCore_eq_ackedSend]; exact hw)
  rw [sendOne, hflush, finish_error, State.sendCore_eq_ackedSend]
  rfl

end SendOne

/-- The address byte is the shifted address and the direction bit, modulo 256 (R194). -/
theorem addressByte_eq (address : Byte) (readFlag : Bool) :
    addressByte address readFlag = BitVec.ofNat 8 ((address.toNat * 2 + if readFlag then 1 else 0) % 256) := by
  apply BitVec.eq_of_toNat_eq
  cases readFlag <;> simp [addressByte]

/-! ## What they leave of bank `LOW` (R185) -/

/-- From `a` to `b` no bit of bank `LOW` changed but the clock and data bits, and in the direction register the data-in bit
(R185). -/
def RegisterPair.KeepsOtherPins (p : Params) (a b : RegisterPair) : Prop :=
  ∀ j : Nat, j ≠ p.sclBit.val → j ≠ p.sdaOutBit.val →
    b.value.getLsbD j = a.value.getLsbD j ∧ (j ≠ p.sdaInBit.val → b.direction.getLsbD j = a.direction.getLsbD j)

/-- `Start` changes the registers of its two lines and of the data-in pin (R190). -/
theorem RegisterPair.started_keepsOtherPins (low : RegisterPair) (p : Params) :
    low.KeepsOtherPins p (((low.startBothHigh p).dropped p.sdaOutBit).dropped p.sclBit) := fun j hscl hsda => by
  simp only [RegisterPair.dropped, RegisterPair.startBothHigh]
  refine ⟨?_, fun hin => ?_⟩
  · rw [getLsbD_unsetBit_of_ne _ hscl, getLsbD_unsetBit_of_ne _ hsda, getLsbD_setBit_of_ne _ hsda,
      getLsbD_setBit_of_ne _ hscl]
  · rw [getLsbD_unsetBit_of_ne _ hin, getLsbD_setBit_of_ne _ hsda, getLsbD_setBit_of_ne _ hscl]

theorem RegisterPair.bothHigh_keepsOtherPins (low : RegisterPair) (p : Params) :
    low.KeepsOtherPins p (low.bothHigh p) := fun j hscl hsda => by
  simp only [RegisterPair.bothHigh, getLsbD_setBit_of_ne _ hsda, getLsbD_setBit_of_ne _ hscl, implies_true, and_self]

theorem RegisterPair.released_keepsOtherPins (low : RegisterPair) (p : Params) :
    low.KeepsOtherPins p (low.released p) := fun _ _ hsda =>
  ⟨rfl, fun _ => getLsbD_unsetBit_of_ne _ hsda⟩

theorem Request.lowWritten_keepsOtherPins {r : Request} (hr : r.i2cOp.isSome = true) (s : State) :
    s.low.KeepsOtherPins s.params (r.lowWritten s) := by
  cases r with
  | i2cStart => exact fun _ _ _ => ⟨rfl, fun _ => rfl⟩
  | i2cStop => exact s.low.bothHigh_keepsOtherPins s.params
  | i2cSendDeviceAddrAndCheckAck _ _ | i2cSendByteAndCheckAck _ | i2cReceiveByte _ =>
    exact s.low.released_keepsOtherPins s.params
  | i2cSendBytes bytes =>
    rw [Request.lowWritten]
    split
    · exact fun _ _ _ => ⟨rfl, fun _ => rfl⟩
    · exact s.low.released_keepsOtherPins s.params
  | _ => cases hr

/-- Lowering two lines before raising both makes no difference to where they end (R192). -/
theorem setBit_setBit_unsetBit_unsetBit (r : Byte) (a b : Nat) :
    setBit (setBit (unsetBit (unsetBit r a) b) a) b = setBit (setBit r a) b := by
  apply BitVec.eq_of_getLsbD_eq
  intro j hj
  simp only [getLsbD_setBit _ _ _ hj, getLsbD_unsetBit _ _ _ hj]
  by_cases ha : j = a <;> by_cases hb : j = b <;> simp [ha, hb]

/-- The last level of `Stop` is both lines high (R192). -/
theorem RegisterPair.stopBothLow_raised (low : RegisterPair) (p : Params) :
    ((low.stopBothLow p).raised p.sclBit).raised p.sdaOutBit = low.bothHigh p :=
  congrArg (RegisterPair.mk · _) (setBit_setBit_unsetBit_unsetBit _ _ _)

/-- An operation with a flush leaves bank `LOW` as it prepared it, whatever the flush does (R244). -/
theorem finish_flush_low {u : State} {low : RegisterPair} {k : List Byte → State → State} (hu : u.low = low)
    (hk : ∀ resp v, (k resp v).low = v.low) : (finish u.flush k).low = low := by
  rcases finish_flush u k with ⟨resp, v, ⟨_, _, _, _, _, rfl⟩, -, he⟩ | ⟨f, v, ⟨_, _, _, _, _, rfl⟩, -, he⟩
  · rw [he, hk, ← hu]
  · rw [he, State.raise_low, ← hu]

/-- An I2C operation with a flush leaves bank `LOW` as its rule writes it, whatever its outcome. -/
theorem perform_low_of_i2cOp {r : Request} (s : State) (hr : r.i2cOp.isSome = true) (hflush : r.flushes = true) :
    Leaves (fun t => t.low = r.lowWritten s) (perform r s) := by
  cases r with
  | i2cStop =>
    refine .whenSynced (.next (finish_flush_low ?_ fun _ _ => rfl))
    rw [State.stopLevels_eq]
    exact s.low.stopBothLow_raised s.params
  | i2cSendDeviceAddrAndCheckAck _ _ | i2cSendByteAndCheckAck _ =>
    exact .whenSynced (.next (finish_flush_low (congrArg State.low (s.sendCore_eq_ackedSend _)) fun _ _ => rfl))
  | i2cSendBytes bytes =>
    exact .whenSynced (.next (finish_flush_low (congrArg State.low (s.sendAll_eq bytes)) fun _ _ => rfl))
  | i2cReceiveByte ack =>
    exact .whenSynced (.next (finish_flush_low (congrArg State.low (s.receiveCore_eq_released ack)) fun _ _ => rfl))
  | i2cStart => cases hflush
  | _ => cases hr

/-- Every I2C operation but `Start` ends with a flush (R166, R190). -/
theorem Request.flushes_of_i2cOp {r : Request} (hr : r.i2cOp.isSome = true) : r = .i2cStart ∨ r.flushes = true := by
  cases r with
  | i2cStart => exact .inl rfl
  | i2cStop | i2cSendDeviceAddrAndCheckAck _ _ | i2cSendByteAndCheckAck _ | i2cSendBytes _ | i2cReceiveByte _ =>
    exact .inr rfl
  | _ => cases hr

theorem Request.not_isPinOperation_of_i2cOp {r : Request} (hr : r.i2cOp.isSome = true) : r.isPinOperation = false := by
  cases r with
  | setBit _ _ | unsetBit _ _ | toggleBit _ _ | isSet _ _ | mask _ _ | fromByte _ _ | toByte _ => cases hr
  | _ => rfl

/-- `Start` leaves bank `LOW` in its last level (R190). -/
theorem i2cStart_low (s : State) :
    Leaves (fun t => t.low = ((s.low.startBothHigh s.params).dropped s.params.sdaOutBit).dropped s.params.sclBit)
      (i2cStart s) := by
  refine .whenSynced (.next ?_)
  rw [State.startLevels_eq]
  rfl

/-! ## The state register `fsm` (R206) -/

/-- A request that is no I2C operation leaves `fsm` before its end. -/
theorem Request.Works.fsm_eq {r : Request} {s t : State} (h : r.Works s t) (hr : r.i2cOp = none) : t.fsm = s.fsm := by
  induction h with
  | refl => rfl
  | setPin _ _ _ ih => rw [State.setPin_fsm, ih]
  | setFsm _ hop _ => cases hr.symm.trans hop
  | recordAll _ _ _ ih | configure _ _ _ ih | enqueueAll _ _ _ _ _ ih | clearBuffers _ ih => exact ih
  | onlyCalls _ hu ih =>
    obtain ⟨_, _, _, rfl⟩ := hu
    exact ih

/-- The taking of a fatal error replies it. -/
theorem OpResult.isFatal_ne_false_of_raise {s u : State} {e : OpError} {f : FatalError} {res : OpResult}
    (he : e.fatal = some f) (hres : (u.raise e).results = s.results ++ [res]) : res.isFatal ≠ false := by
  rw [State.raise_results] at hres
  obtain rfl : OpResult.error e = res := List.singleton_inj.mp (List.append_inj_right' hres rfl)
  simp [OpResult.isFatal, he]

/-- A request that is no I2C operation leaves `fsm`, but for a fatal error. -/
theorem Request.Ends.fsm_eq {r : Request} {s t : State} {res : OpResult} (h : r.Ends s t) (hr : r.i2cOp = none)
    (hres : t.results = s.results ++ [res]) (hf : res.isFatal = false) : t.fsm = s.fsm := by
  cases h with
  | reply h _ | established h _ | nextRound h _ => exact h.fsm_eq hr
  | fatal _ he => exact absurd hf (OpResult.isFatal_ne_false_of_raise he hres)

/-- An operation that ended with `fsm = f`, or with a `TransportError`. -/
def State.EndsInFsm (f : Fsm) (t : State) : Prop :=
  t.fsm = f ∨ ∃ (u : State) (fn : TransportFn), t = u.raise (.transportError fn)

theorem finish_flush_endsInFsm {u : State} {k : List Byte → State → State} {f : Fsm} (hk : ∀ resp v, (k resp v).fsm = f) :
    (finish u.flush k).EndsInFsm f := by
  rcases finish_flush u k with ⟨resp, v, -, -, he⟩ | ⟨fn, v, -, -, he⟩
  · exact Or.inl (by rw [he, hk])
  · exact Or.inr ⟨v, fn, he⟩

/-- An I2C operation ends in the state of the transition function, whatever `fsm` held, or with a `TransportError` (R206). -/
theorem perform_endsInFsm {r : Request} {op : I2cOp} (s : State) (hr : r.i2cOp = some op) :
    Leaves (State.EndsInFsm (fsmAfter op)) (perform r s) := by
  cases r with
  | i2cStart => cases hr; exact .whenSynced (.next (Or.inl rfl))
  | i2cStop | i2cSendDeviceAddrAndCheckAck _ _ | i2cSendByteAndCheckAck _ | i2cSendBytes _ | i2cReceiveByte _ =>
    cases hr
    exact .whenSynced (.next (finish_flush_endsInFsm fun _ _ => rfl))
  | _ => cases hr

/-! ## The obligations -/

/-- Settles O32: the send of one byte (`sendOne_served`, `sendOne_write_fails`) with the address byte. -/
theorem addressSendReturnsTheAcknowledge : Obligations.AddressSendReturnsTheAcknowledge := by
  intro s address readFlag hs b out low'
  have hsend : perform (.i2cSendDeviceAddrAndCheckAck address readFlag) s = sendOne s b .sendAddress := by
    rw [perform, i2cSendDeviceAddrAndCheckAck, whenSynced_synced hs, addressByte_eq]
  rw [hsend]
  exact ⟨fun _ _ _ => sendOne_served, fun _ _ => sendOne_write_fails .sendAddress⟩

/-- Settles O34: the flush of all bytes is served or, with nothing to send, makes no call; the acknowledges are
`ackResults_eq`. -/
theorem bytesSendReturnsOneAcknowledgePerByte : Obligations.BytesSendReturnsOneAcknowledgePerByte := by
  intro s bytes hs out
  have hsend : perform (.i2cSendBytes bytes) s = .next (finish (s.sendAll bytes).flush fun resp u =>
      (u.setFsm (fsmAfter .data)).reply
        (.flags (ackResults (s.sendAll bytes).rxexp resp s.rxexp.length bytes.length))) := whenSynced_synced hs _
  rw [hsend]
  refine ⟨fun earlier acks rest hout hearlier hacks hserved => ?_, fun hout => ?_⟩
  · have hflags : acks.map ackOf = acks.map fun a => a.getLsbD 0 == false := List.map_congr_left fun a _ => ackOf_eq a
    rw [finish_flush_served (s.sendAll_eq bytes) (sum_ackLengths bytes) hout hserved, State.sendAll_eq,
      ackResults_eq hearlier hacks, hflags]
    rfl
  · obtain ⟨htx, hbytes⟩ := List.append_eq_nil_iff.mp hout
    obtain rfl : bytes = [] := List.eq_nil_iff_forall_not_mem.mpr (by simpa [ackedSend] using hbytes)
    simp only [State.sendAll, State.flush_empty htx, finish_ok]
    rfl

/-- Settles O36: bank `HIGH` is owned by pin operations alone, and of bank `LOW` every I2C operation writes what its rule
says. -/
theorem i2cOperationsKeepTheOtherPins : Obligations.I2cOperationsKeepTheOtherPins := by
  intro r s t hr h
  have hlow : s.low.KeepsOtherPins s.params t.low := by
    rcases Request.flushes_of_i2cOp hr with rfl | hflush
    · rw [i2cStart_low s t h]
      exact s.low.started_keepsOtherPins s.params
    · rw [perform_low_of_i2cOp s hr hflush t h]
      exact Request.lowWritten_keepsOtherPins hr s
  obtain ⟨-, hhigh, -⟩ := pinRegistersAreWrittenOnlyByTheirOwners r s t h
  exact ⟨hhigh (Request.not_isPinOperation_of_i2cOp hr), fun j _ => hlow j⟩

/-- Settles O37: an I2C operation ends as its transition says (`perform_endsInFsm`), any other leaves `fsm`
(`Request.Ends.fsm_eq`). -/
theorem fsmFollowsTheTransitionTable : Obligations.FsmFollowsTheTransitionTable := by
  intro r s t res h hres hf
  have hother (hr : r.i2cOp = none) : t.fsm = s.fsm := (perform_endsIn r s t h).fsm_eq hr hres hf
  have hi2c {op : I2cOp} (hr : r.i2cOp = some op) : t.fsm = fsmAfter op := by
    rcases perform_endsInFsm s hr t h with hfsm | ⟨u, fn, rfl⟩
    · exact hfsm
    · exact absurd hf (OpResult.isFatal_ne_false_of_raise rfl hres)
  cases r with
  | i2cStart | i2cStop | i2cSendDeviceAddrAndCheckAck _ _ | i2cSendByteAndCheckAck _ | i2cSendBytes _
  | i2cReceiveByte _ => exact hi2c rfl
  | _ => exact hother rfl

/-- Settles O30: three levels held, and no flush. -/
theorem startEmitsItsThreeLevels : Obligations.StartEmitsItsThreeLevels := by
  intro s hs scl sda n d v1 v2 v3
  rw [perform, i2cStart, whenSynced_synced hs, State.startLevels_eq]
  rfl

/-- Settles O31: three levels held, and a flush that is served. -/
theorem stopEmitsItsThreeLevelsAndFlushes : Obligations.StopEmitsItsThreeLevelsAndFlushes := by
  intro s resp rest hs hn scl sda n d v1 v2 v3 out hserved
  have hout : out ≠ [] := by
    have hheld : heldLevel ⟨v3, d⟩ n ≠ [] := mt (heldLevel_eq_nil_iff _ _).mp (Nat.ne_of_gt hn)
    exact List.append_ne_nil_of_right_ne_nil _ (List.append_ne_nil_of_right_ne_nil _ hheld)
  refine (whenSynced_synced hs _).trans (congrArg Host.Outcome.next ?_)
  exact finish_flush_served (n := 0) s.stopLevels_eq (by simp) hout hserved _

/-- Settles O33: the send of one byte, served. -/
theorem byteSendReturnsTheAcknowledge : Obligations.ByteSendReturnsTheAcknowledge :=
  fun _ _ _ _ _ hs hearlier hserved => (whenSynced_synced hs _).trans (sendOne_served hearlier hserved)

/-- Settles O35: the flush is served, and the first fragment owns the last byte of the response. -/
theorem receiveReturnsTheByteClockedIn : Obligations.ReceiveReturnsTheByteClockedIn := by
  intro s ackToSend earlier received rest hs hearlier sda out hserved
  have hreceive : perform (.i2cReceiveByte ackToSend) s = .next (finish (s.receiveCore ackToSend).flush fun resp u =>
      (u.setFsm (fsmAfter .data)).reply
        (.byte (sliceByte (s.receiveCore ackToSend).rxexp resp s.rxexp.length))) := whenSynced_synced hs _
  rw [hreceive, finish_flush_served (s.receiveCore_eq_released ackToSend) rfl
    (List.append_ne_nil_of_right_ne_nil _ (List.cons_ne_nil _ _)) hserved, State.receiveCore_eq_released,
    sliceByte_middle hearlier]
  rfl

end Sys2Proof.Machine

/-! PROOFS. The SPI operations (45_spi.md): the levels of `SpiConfigure` (R216, R217), the fragments of a transfer by
policy (R218, R219), and the two transfers against a transport that serves them, of a bad length or without a record
(R222 to R230). -/

namespace Sys2Proof.Machine

/-! ## SpiConfigure (R216) -/

/-- The policies whose idle chip-select level is high (R217). -/
theorem CsPolicy.idleLevel_eq_true_iff (policy : CsPolicy) :
    policy.idleLevel = true ↔ policy = .activeLow ∨ policy = .defaultHigh := by
  cases policy <;> decide

/-- The level of the clock by the mode, then that of chip-select by the policy (R216, R217). -/
theorem spiIdleValue_eq (p : Params) (cfg : SpiConfig) (v : Byte) :
    spiIdleValue p cfg v =
      let v' := if cfg.mode = .mode2 then setBit v p.skBit else unsetBit v p.skBit
      if cfg.chipSelectPolicy = .activeLow ∨ cfg.chipSelectPolicy = .defaultHigh then setBit v' cfg.chipSelectPin
      else unsetBit v' cfg.chipSelectPin := by
  simp only [spiIdleValue, putBit, beq_iff_eq, CsPolicy.idleLevel_eq_true_iff]

/-- A legal configuration is recorded, its idle levels are written, and one set command is appended (R216). -/
theorem spiConfigure_of_pin_le {s : State} {cfg : SpiConfig} (hs : s.sync = .synced) (hc : cfg.chipSelectPin ≤ 7) :
    spiConfigure s cfg =
      let d := spiDirection s.params cfg.chipSelectPin s.low.direction
      let v := spiIdleValue s.params cfg s.low.value
      .next (State.withFragment { s with low := { value := v, direction := d }, spiCfg := some cfg }
        [0x80#8, v, d] 0) := by
  rw [spiConfigure, whenSynced_synced hs, if_neg (Nat.not_lt_of_le hc)]
  rfl

/-! ## The fragments of a transfer (R219, R222) -/

/-- The bytes of a transfer of `command` (R219): alone under a Default policy, else between the set command that asserts
chip-select and the one that returns it to its idle level. -/
def SpiConfig.transferBytes (cfg : SpiConfig) (low : RegisterPair) (command : List Byte) : List Byte :=
  match cfg.chipSelectPolicy.activeLevel with
  | none => command
  | some level => [0x80#8, putBit low.value cfg.chipSelectPin level, low.direction] ++ command ++
      [0x80#8, (low.deselected (some cfg)).value, low.direction]

/-- The expected lengths on either side of the command of a transfer: that of one set command, or none (R219). -/
def SpiConfig.csLengths (cfg : SpiConfig) : List Nat :=
  match cfg.chipSelectPolicy.activeLevel with
  | none => []
  | some _ => [0]

theorem SpiConfig.sum_csLengths (cfg : SpiConfig) : cfg.csLengths.sum = 0 := by
  rw [SpiConfig.csLengths]
  split <;> rfl

/-- A transfer of a byte command has something to write, whatever is pending. -/
theorem SpiConfig.append_transferBytes_ne_nil (cfg : SpiConfig) (pending : List Byte) (low : RegisterPair) (op : Byte)
    (p : List Byte) : pending ++ cfg.transferBytes low (encodePayload op p) ≠ [] := by
  refine List.append_ne_nil_of_right_ne_nil _ ?_
  rw [SpiConfig.transferBytes]
  split <;> exact List.cons_ne_nil _ _

/-- Only a set command of chip-select comes before the command of a transfer. -/
theorem State.assertCs_rxexp (s : State) (cfg : SpiConfig) : (s.assertCs cfg).rxexp = s.rxexp ++ cfg.csLengths := by
  rw [State.assertCs, SpiConfig.csLengths]
  cases cfg.chipSelectPolicy.activeLevel with
  | none => exact (List.append_nil _).symm
  | some level => rfl

/-- A transfer under any policy: its bytes, its expected lengths, and chip-select at its idle level (R217, R219). -/
theorem State.spiTransfer_eq (s : State) (cfg : SpiConfig) (command : Encoded) :
    s.spiTransfer cfg command = { s with
      low := s.low.deselected (some cfg)
      txbuf := s.txbuf ++ cfg.transferBytes s.low command.1
      rxexp := s.rxexp ++ (cfg.csLengths ++ command.2 :: cfg.csLengths) } := by
  obtain ⟨mode, pin, policy⟩ := cfg
  cases policy with
  | activeLow =>
    rw [State.spiTransfer_auto _ _ _ false rfl, CsPolicy.idleLevel]
    simp only [putBit, if_true, Bool.false_eq_true, if_false, setBit_unsetBit]
    rfl
  | activeHigh =>
    rw [State.spiTransfer_auto _ _ _ true rfl, CsPolicy.idleLevel]
    simp only [putBit, if_true, Bool.false_eq_true, if_false, unsetBit_setBit]
    rfl
  | defaultLow | defaultHigh => rw [State.spiTransfer_manual _ _ _ rfl]; rfl

/-! ## The commands of the two transfers (R218, R230) -/

/-- The opcode of a `write` (R124, R149, R218). -/
def SpiMode.writeOpcode (mode : SpiMode) : Byte := if mode = .mode0 then 0x11#8 else 0x10#8

/-- The opcode of a `readWrite` (R150, R151, R218). -/
def SpiMode.readWriteOpcode (mode : SpiMode) : Byte := if mode = .mode0 then 0x31#8 else 0x34#8

/-- The command of a `write` of a legal length, by mode (R218). -/
theorem spiWriteCommand_of_payloadOk {p : List Byte} (h : payloadOk p = true) (mode : SpiMode) :
    spiWriteCommand mode p = .ok (encodePayload mode.writeOpcode p, 0) := by
  cases mode <;> exact byteCommand_of_payloadOk h _ _

/-- The command of a `readWrite` of a legal length, by mode (R218). -/
theorem spiReadWriteCommand_of_payloadOk {p : List Byte} (h : payloadOk p = true) (mode : SpiMode) :
    spiReadWriteCommand mode p = .ok (encodePayload mode.readWriteOpcode p, p.length) := by
  cases mode <;> exact byteCommand_of_payloadOk h _ _

theorem spiWriteCommand_of_not_payloadOk {p : List Byte} (h : payloadOk p = false) (mode : SpiMode) :
    spiWriteCommand mode p = .error (.encodingError p.length) := by
  obtain ⟨op, hop⟩ := spiWriteCommand_eq mode p
  rw [hop, byteCommand_of_not_payloadOk h]

theorem spiReadWriteCommand_of_not_payloadOk {p : List Byte} (h : payloadOk p = false) (mode : SpiMode) :
    spiReadWriteCommand mode p = .error (.encodingError p.length) := by
  obtain ⟨op, hop⟩ := spiReadWriteCommand_eq mode p
  rw [hop, byteCommand_of_not_payloadOk h]

/-! ## The transfers in service (R222, R224) -/

section Transfer

variable {s : State} {cfg : SpiConfig} {p : List Byte} (hs : s.sync = .synced)
include hs

/-- Without a record a transfer is refused (R222). -/
theorem spiTransfers_of_not_configured (hcfg : s.spiCfg = none) :
    spiWrite s p = .refused .spiNotConfigured ∧ spiReadWrite s p = .refused .spiNotConfigured := by
  rw [spiWrite, spiReadWrite, whenSynced_synced hs, whenSynced_synced hs, whenConfigured, whenConfigured, hcfg]
  exact ⟨rfl, rfl⟩

variable (hcfg : s.spiCfg = some cfg)
include hcfg

/-- The command of a bad length is not encoded, so nothing moves (R230). -/
theorem spiTransfers_of_not_payloadOk (hp : payloadOk p = false) :
    spiWrite s p = .next (s.withError (.encodingError p.length)) ∧
      spiReadWrite s p = .next (s.withError (.encodingError p.length)) := by
  rw [spiWrite, spiReadWrite, whenSynced_synced hs, whenSynced_synced hs, whenConfigured_some hcfg,
    whenConfigured_some hcfg, spiWriteCommand_of_not_payloadOk hp, spiReadWriteCommand_of_not_payloadOk hp]
  exact ⟨rfl, rfl⟩

variable (hp : payloadOk p = true)
include hp

/-- A `readWrite` of a legal length flushes its transfer and returns the slice of its command (R224). -/
theorem spiReadWrite_of_payloadOk :
    spiReadWrite s p =
      let t := s.spiTransfer cfg (encodePayload cfg.mode.readWriteOpcode p, p.length)
      .next (finish t.flush fun resp u => u.reply (.bytes (slice t.rxexp resp (s.assertCs cfg).rxexp.length))) := by
  rw [spiReadWrite, whenSynced_synced hs, whenConfigured_some hcfg, spiReadWriteCommand_of_payloadOk hp]

/-- A `write` whose flush is served (R222). -/
theorem spiWrite_served {out resp : List Byte} {rest : List Answer}
    (hout : out = s.txbuf ++ cfg.transferBytes s.low (encodePayload cfg.mode.writeOpcode p))
    (h : s.Served out s.rxexp.sum resp rest) :
    spiWrite s p = .next { s with
      low := s.low.deselected (some cfg), txbuf := [], rxexp := [], answers := rest
      calls := s.calls ++ flushCalls out s.rxexp.sum
      results := s.results ++ [.done] } := by
  subst hout
  rw [spiWrite, whenSynced_synced hs, whenConfigured_some hcfg, spiWriteCommand_of_payloadOk hp]
  refine congrArg Host.Outcome.next (finish_flush_served (n := 0) (s.spiTransfer_eq cfg _) ?_ ?_ h _)
  · simp [SpiConfig.sum_csLengths]
  · exact cfg.append_transferBytes_ne_nil _ _ _ _

/-- A `readWrite` whose flush is served returns the bytes that follow those of the earlier fragments (R163, R224). -/
theorem spiReadWrite_served {out earlier received : List Byte} {rest : List Answer}
    (hearlier : earlier.length = s.rxexp.sum) (hreceived : received.length = p.length)
    (hout : out = s.txbuf ++ cfg.transferBytes s.low (encodePayload cfg.mode.readWriteOpcode p))
    (h : s.Served out (s.rxexp.sum + p.length) (earlier ++ received) rest) :
    spiReadWrite s p = .next { s with
      low := s.low.deselected (some cfg), txbuf := [], rxexp := [], answers := rest
      calls := s.calls ++ [.write out, .read (s.rxexp.sum + p.length)]
      results := s.results ++ [.bytes received] } := by
  subst hout
  have hread : s.rxexp.sum + p.length ≠ 0 := by
    have hlength := (payloadOk_iff p).mp hp
    omega
  have hslice : slice (s.rxexp ++ (cfg.csLengths ++ p.length :: cfg.csLengths)) (earlier ++ received)
      (s.rxexp ++ cfg.csLengths).length = received := by
    have hmiddle := slice_middle (s.rxexp ++ cfg.csLengths) cfg.csLengths p.length earlier received []
      (by rw [List.sum_append, cfg.sum_csLengths, hearlier, Nat.add_zero]) hreceived
    rwa [List.append_nil, List.append_assoc] at hmiddle
  rw [spiReadWrite_of_payloadOk hs hcfg hp]
  refine congrArg Host.Outcome.next
    ((finish_flush_served (n := p.length) (s.spiTransfer_eq cfg _) ?_ ?_ h _).trans ?_)
  · simp [SpiConfig.sum_csLengths]
  · exact cfg.append_transferBytes_ne_nil _ _ _ _
  · simp only [State.spiTransfer_eq, State.assertCs_rxexp, hslice, flushCalls, if_neg hread]
    rfl

/-- A `readWrite` whose write is not taken in full has made that write and no other call (R165). -/
theorem spiReadWrite_write_fails {w : Answer} {rest : List Answer} {out : List Byte}
    (hout : out = s.txbuf ++ cfg.transferBytes s.low (encodePayload cfg.mode.readWriteOpcode p))
    (ha : s.answers = w :: rest) (hw : w.count ≠ out.length) :
    ∃ t, spiReadWrite s p = .next t ∧ t.calls = s.calls ++ [.write out] := by
  subst hout
  have hflush := State.flush_write_fails (w := w) (rest := rest)
    (s := s.spiTransfer cfg (encodePayload cfg.mode.readWriteOpcode p, p.length))
    (by rw [State.spiTransfer_eq]; exact cfg.append_transferBytes_ne_nil _ _ _ _)
    (by rw [State.spiTransfer_eq, ha]) (.inr (by rw [State.spiTransfer_eq]; exact hw))
  refine ⟨_, spiReadWrite_of_payloadOk hs hcfg hp, ?_⟩
  rw [hflush, finish_error, State.raise_calls, State.spiTransfer_eq]

end Transfer

/-- Under an automatic policy the bytes and the bank that a transfer leaves, by the levels of chip-select (R217, R219). -/
theorem SpiConfig.transfer_of_automatic {cfg : SpiConfig} {low : RegisterPair} {asserted idle : Byte}
    (h : (cfg.chipSelectPolicy = .activeLow ∧ asserted = unsetBit low.value cfg.chipSelectPin ∧
        idle = setBit low.value cfg.chipSelectPin) ∨
      (cfg.chipSelectPolicy = .activeHigh ∧ asserted = setBit low.value cfg.chipSelectPin ∧
        idle = unsetBit low.value cfg.chipSelectPin)) (command : List Byte) :
    cfg.transferBytes low command =
        [0x80#8, asserted, low.direction] ++ command ++ [0x80#8, idle, low.direction] ∧
      low.deselected (some cfg) = { low with value := idle } := by
  obtain ⟨mode, pin, policy⟩ := cfg
  rcases h with ⟨rfl, rfl, rfl⟩ | ⟨rfl, rfl, rfl⟩ <;> exact ⟨rfl, rfl⟩

/-- Under a Default policy a transfer is its command, and the bank is kept (R219). -/
theorem SpiConfig.transfer_of_default {cfg : SpiConfig}
    (h : cfg.chipSelectPolicy = .defaultLow ∨ cfg.chipSelectPolicy = .defaultHigh) (low : RegisterPair)
    (command : List Byte) :
    cfg.transferBytes low command = command ∧ low.deselected (some cfg) = low := by
  obtain ⟨mode, pin, policy⟩ := cfg
  rcases h with rfl | rfl <;> exact ⟨rfl, rfl⟩

/-! ## The obligations -/

/-- Settles O39: the flush is served, and the policy says which bytes and which bank these are. -/
theorem spiWriteSendsOneTransfer : Obligations.SpiWriteSendsOneTransfer := by
  intro s cfg p resp rest hs hcfg h1 h2 c v cmd
  have hp : payloadOk p = true := (payloadOk_iff p).mpr ⟨h1, h2⟩
  refine ⟨?_, fun hpolicy hserved => ?_⟩
  · intro asserted idle hpolicy out hserved
    obtain ⟨hbytes, hlow⟩ := SpiConfig.transfer_of_automatic (low := s.low) hpolicy cmd
    rw [← hlow]
    exact spiWrite_served hs hcfg hp (congrArg (s.txbuf ++ ·) hbytes.symm) hserved
  · obtain ⟨hbytes, hlow⟩ := SpiConfig.transfer_of_default hpolicy s.low cmd
    have hwrite := spiWrite_served hs hcfg hp (congrArg (s.txbuf ++ ·) hbytes.symm) hserved
    rwa [hlow] at hwrite

/-- Settles O40: the flush is served, and the transfer's slice is what follows the earlier fragments' bytes. -/
theorem spiReadWriteReturnsItsTransfer : Obligations.SpiReadWriteReturnsItsTransfer := by
  intro s cfg p earlier received rest hs hcfg h1 h2 hearlier hreceived c v n cmd
  have hp : payloadOk p = true := (payloadOk_iff p).mpr ⟨h1, h2⟩
  refine ⟨?_, fun hpolicy hserved => ?_⟩
  · intro asserted idle hpolicy out hserved
    obtain ⟨hbytes, hlow⟩ := SpiConfig.transfer_of_automatic (low := s.low) hpolicy cmd
    rw [← hlow]
    exact spiReadWrite_served hs hcfg hp hearlier hreceived (congrArg (s.txbuf ++ ·) hbytes.symm) hserved
  · obtain ⟨hbytes, hlow⟩ := SpiConfig.transfer_of_default hpolicy s.low cmd
    have hread := spiReadWrite_served hs hcfg hp hearlier hreceived (congrArg (s.txbuf ++ ·) hbytes.symm) hserved
    rwa [hlow] at hread

/-- Settles O42: the write is reported whole, because `readWrite` makes that write whatever is reported
(`spiReadWrite_write_fails`); so the flush is served, and the whole response is the transfer's slice. -/
theorem spiLoopbackReturnsTheData : Obligations.SpiLoopbackReturnsTheData := by
  intro s w r rest data hs hcfg hsum h1 h2 ha hw hr hbytes hreported
  obtain ⟨cfg, hcfg⟩ := Option.ne_none_iff_exists'.mp hcfg
  have hp : payloadOk data = true := (payloadOk_iff data).mpr ⟨h1, h2⟩
  obtain ⟨out, hout⟩ : ∃ out, out = s.txbuf ++
    cfg.transferBytes s.low (encodePayload cfg.mode.readWriteOpcode data) := ⟨_, rfl⟩
  have hcount : w.count = out.length := by
    by_contra hne
    obtain ⟨t, ht, hcalls⟩ := spiReadWrite_write_fails hs hcfg hp hout ha hne
    exact hne (hreported t ht out (by rw [hcalls, List.drop_left]; exact List.mem_singleton_self _))
  have hserved : s.Served out (s.rxexp.sum + data.length) ([] ++ data) rest := by
    rw [State.Served, hsum, Nat.zero_add, if_neg (by omega)]
    exact ⟨w, r, ha, hw, hcount, hr, by rw [hbytes]; exact List.take_length, rfl⟩
  exact ⟨_, spiReadWrite_served (earlier := []) hs hcfg hp hsum.symm rfl hout hserved, rfl⟩

/-- Settles O38: the pin decides between the `RangeError` and the levels of `spiIdleValue`. -/
theorem spiConfigureSetsIdleLevels : Obligations.SpiConfigureSetsIdleLevels := by
  intro s cfg hs c d v v'
  refine ⟨fun hc => ?_, fun hc => ?_⟩
  · rw [perform, spiConfigure_of_pin_le hs hc, spiIdleValue_eq]
    rfl
  · rw [perform, spiConfigure, whenSynced_synced hs, if_pos hc]
    rfl

/-- Settles O41: a bad length is no payload of a byte command (`spiTransfers_of_not_payloadOk`), and the record is looked
for before the length. -/
theorem spiBadLengthMovesNothing : Obligations.SpiBadLengthMovesNothing := by
  refine fun s p hs => ⟨fun hcfg hbad => ?_, fun hcfg => spiTransfers_of_not_configured hs hcfg⟩
  obtain ⟨cfg, hcfg⟩ := Option.ne_none_iff_exists'.mp hcfg
  exact spiTransfers_of_not_payloadOk hs hcfg ((payloadOk_eq_false_iff p).mpr hbad)

end Sys2Proof.Machine

/-! PROOFS. The exceptions (60_exceptions.md): what is refused out of service (R246, R247 (1)), a bring-up call as a request
(R239, R262), and what an operation that ends in an error leaves, said once for every request (R240 to R244). -/

namespace Sys2Proof.Machine

/-! ## Out of service (R246, R247 (1)) -/

theorem whenSynced_unsynced {s : State} (hs : s.sync = .unsynced) (body : Result) :
    whenSynced s body = .refused .unsynced := by
  rw [whenSynced, hs]

/-- Outside a handshake a probe byte is refused with the rest. -/
theorem whenRound_unsynced {s : State} (hs : s.sync = .unsynced) (hh : s.handshake = none) (round : Round)
    (body : Result) : whenRound s round body = .refused .unsynced := by
  rw [whenRound, hh, if_neg nofun, whenSynced_unsynced hs]

theorem exec_unsynced {s : State} (hs : s.sync = .unsynced) (hh : s.handshake = none) (i : Instr) :
    exec i s = .refused .unsynced := by
  cases i with
  | syncProbe1 | syncProbe2 => exact whenRound_unsynced hs hh _ _
  | _ => exact whenSynced_unsynced hs _

/-! ## How a request ends, by the error it returns -/

/-- The ways a request `r` begun in `s` ends: without an error; with an argument error and nothing else changed (R241, R242);
or with a fatal error taken where only bank `LOW`, as the rule of `r` writes it, the buffers and the calls differ from `s`
(R243, R244). -/
inductive Request.Concludes (r : Request) (s : State) : State → Prop
  | noError {t : State} (h : ∀ e, t.results ≠ s.results ++ [.error e]) : r.Concludes s t
  | argumentError {e : OpError} (he : e.fatal = none) : r.Concludes s (s.withError e)
  | fatalError {u : State} {e : OpError} {f : FatalError} (he : e.fatal = some f)
      (hu : State.OnlyBuffers { s with low := r.lowWritten s } u) (hlow : f = .syncError → r.lowWritten s = s.low) :
    r.Concludes s (u.withFatal f e)

theorem State.raise_eq_withError {s : State} {e : OpError} (he : e.fatal = none) : s.raise e = s.withError e := by
  rw [State.raise_eq, he]
  rfl

theorem State.OnlyBuffers.trans {s t u : State} (h : s.OnlyBuffers t) (h' : t.OnlyBuffers u) : s.OnlyBuffers u := by
  obtain ⟨_, _, _, _, _, rfl⟩ := h
  obtain ⟨_, _, _, _, _, rfl⟩ := h'
  exact ⟨_, _, _, _, _, rfl⟩

theorem State.OnlyCalls.onlyBuffers {s t : State} (h : s.OnlyCalls t) : s.OnlyBuffers t := by
  obtain ⟨_, _, _, rfl⟩ := h
  exact ⟨_, _, _, _, _, rfl⟩

theorem State.clearBuffers_onlyBuffers (s : State) : s.OnlyBuffers s.clearBuffers := ⟨_, _, _, _, _, rfl⟩

namespace Request.Concludes

variable {r : Request} {s : State}

theorem reply {t : State} {res : OpResult} (ht : t.results = s.results) (hres : ∀ e, res ≠ .error e) :
    r.Concludes s (t.reply res) := by
  refine .noError fun e h => hres e ?_
  rw [State.reply_results, ht] at h
  simpa using h

theorem raise {e : OpError} (he : e.fatal = none) : r.Concludes s (s.raise e) := by
  rw [State.raise_eq_withError he]
  exact .argumentError he

/-- A fatal error of a request that writes no pin register before its calls. -/
theorem raise_fatal {u : State} {e : OpError} {f : FatalError} (hr : r.lowWritten s = s.low) (hu : s.OnlyBuffers u)
    (he : e.fatal = some f) : r.Concludes s (u.raise e) := by
  rw [State.raise_eq_withFatal he]
  exact .fatalError he (by rwa [hr]) fun _ => hr

/-- A flush fails with a `TransportError` only, and leaves bank `LOW` as the operation prepared it (R165, R244). -/
theorem flush {u : State} {k : List Byte → State → State} (hu : State.OnlyBuffers { s with low := r.lowWritten s } u)
    (hk : RepliesAfter k) : r.Concludes s (finish u.flush k) := by
  rcases finish_flush u k with ⟨resp, v, hv, -, he⟩ | ⟨f, v, hv, -, he⟩
  · obtain ⟨fsm, res, hreply, hres⟩ := hk resp v
    obtain ⟨_, _, _, _, _, rfl⟩ := hu.trans hv
    rw [he, hreply]
    exact .reply rfl hres
  · rw [he, State.raise_eq_withFatal rfl]
    exact .fatalError rfl (hu.trans hv) nofun

/-- A probe round fails with a fatal error only (R177). -/
theorem probe (hr : r.lowWritten s = s.low) (x : Byte) {k : Unit → State → State}
    (hk : ∀ u, u.results = s.results → r.Concludes s (k () u)) : r.Concludes s (finish (s.probe x) k) := by
  rcases finish_probe s x k with ⟨u, ⟨_, _, _, hu⟩, -, he⟩ | ⟨e, f, u, hf, hu, -, he⟩
  · rw [he]
    exact hk u (by rw [hu])
  · rw [he]
    exact raise_fatal hr hu.onlyBuffers hf

end Request.Concludes

/-! ### The pin operations and the buffer -/

section Buffer

variable {r : Request} {s : State}

theorem updatePin_concludes (p : PinReg) (v : Byte) : Leaves (r.Concludes s) (updatePin s p v) :=
  .next (.reply (State.setPin_results _ _ _) nofun)

theorem pinMask_concludes (p : PinReg) (bits : List (Option Bool)) : Leaves (r.Concludes s) (pinMask s p bits) := by
  rw [pinMask]
  split
  · exact .next (.raise rfl)
  · exact updatePin_concludes p _

/-- The error of an encoder function is an argument error (R121, R122). -/
theorem fatal_of_encoderOf_error {i : Instr} {e : OpError} (h : encoderOf i = some (.error e)) : e.fatal = none := by
  cases hi : i.isProbe with
  | true =>
    rw [encoderOf_of_isProbe hi] at h
    cases h
  | false =>
    cases hw : i.wellFormed with
    | true =>
      rw [encoderOf_of_wellFormed hi hw] at h
      cases h
    | false =>
      obtain ⟨n, hn⟩ := encoderOf_of_not_wellFormed hw
      rw [hn] at h
      cases h
      rfl

theorem encodeOp_concludes (i : Instr) : Leaves (r.Concludes s) (encodeOp s i) := by
  refine .whenSynced ?_
  split
  · exact .refused _
  · next res hres =>
    refine .whenCapable ?_
    cases res with
    | ok c => exact .next (.reply rfl nofun)
    | error e => exact .next (.raise (fatal_of_encoderOf_error hres))

theorem enqueueRaw_concludes (bytes : List Byte) (expected : Nat) :
    Leaves (r.Concludes s) (enqueueRaw s bytes expected) := by
  refine .whenSynced ?_
  split
  · exact .refused _
  · split
    · exact .refused _
    · exact .whenCapable (.next (.reply rfl nofun))

end Buffer

/-! ### The wire commands, the handshake and the bring-up calls -/

/-- A command out of range changes nothing, a command in range is appended, and a probe byte is its round. -/
theorem exec_concludes (s : State) (i : Instr) : Leaves ((Request.wire i).Concludes s) (exec i s) := by
  intro t h
  cases hi : i.isProbe with
  | false =>
    obtain ⟨hs, ha, -⟩ := exec_next_of_not_isProbe hi h
    cases hw : i.wellFormed with
    | true =>
      rw [exec_of_wellFormed hs ha hi hw] at h
      cases h
      exact .reply (t := (s.recordAll [i]).enqueue (encode i, engineResponseBytes i)) rfl nofun
    | false =>
      obtain ⟨n, hn⟩ := encoderOf_of_not_wellFormed hw
      rw [exec_of_encodingError hs ha hn] at h
      cases h
      exact .argumentError rfl
  | true =>
    cases i with
    | syncProbe1 =>
      obtain ⟨-, ⟨⟩⟩ := whenRound_next h
      refine .probe rfl _ fun u hu => .noError fun e => ?_
      simp [hu]
    | syncProbe2 =>
      obtain ⟨-, ⟨⟩⟩ := whenRound_next h
      exact .probe rfl _ fun u hu => .reply hu nofun
    | _ => cases hi

theorem syncHandshake_concludes (s : State) : Leaves (Request.syncHandshake.Concludes s) (syncHandshake s) := by
  rcases syncHandshake_cases s with ⟨t, ⟨_, _, _, rfl⟩, he⟩ | ⟨e, f, t, hf, ht, he⟩
  · rw [he]
    exact .next (.reply rfl nofun)
  · rw [he]
    exact .next (.raise_fatal rfl (s.clearBuffers_onlyBuffers.trans ht.onlyBuffers) hf)

theorem bringUpOp_concludes (s : State) (c : BringUpCall) : Leaves ((Request.bringUp c).Concludes s) (bringUpOp s c) := by
  rw [bringUpOp, State.transportBringUp]
  split
  · exact .next (.reply rfl nofun)
  · rw [finish_error]
    exact .next (.raise_fatal rfl (s.onlyCalls_afterCall _).onlyBuffers rfl)

/-! ### The I2C and SPI operations -/

section Personality

variable {r : Request} {s : State}

theorem i2cStart_concludes : Leaves (r.Concludes s) (i2cStart s) := by
  refine .whenSynced (.next (.reply ?_ nofun))
  rw [State.startLevels_eq]
  rfl

/-- `Stop` has written both lines high when it flushes (R192). -/
theorem i2cStop_concludes : Leaves (Request.i2cStop.Concludes s) (i2cStop s) := by
  have hlow : Request.i2cStop.lowWritten s =
      ((s.low.stopBothLow s.params).raised s.params.sclBit).raised s.params.sdaOutBit :=
    (s.low.stopBothLow_raised s.params).symm
  refine .whenSynced (.next (.flush ?_ fun _ _ => ⟨_, _, rfl, nofun⟩))
  rw [hlow]
  exact ⟨_, _, _, _, _, s.stopLevels_eq⟩

/-- A send has released the data pin when it flushes (R193). -/
theorem sendOne_concludes (hr : r.lowWritten s = s.low.released s.params) (b : Byte) (op : I2cOp) :
    Leaves (r.Concludes s) (sendOne s b op) := by
  refine .next (.flush ?_ fun _ _ => ⟨_, _, rfl, nofun⟩)
  rw [hr]
  exact ⟨_, _, _, _, _, s.sendCore_eq_ackedSend b⟩

theorem i2cSendBytes_concludes (bytes : List Byte) :
    Leaves ((Request.i2cSendBytes bytes).Concludes s) (i2cSendBytes s bytes) :=
  .whenSynced (.next (.flush ⟨_, _, _, _, _, s.sendAll_eq bytes⟩ fun _ _ => ⟨_, _, rfl, nofun⟩))

theorem i2cReceiveByte_concludes (ack : Bool) :
    Leaves ((Request.i2cReceiveByte ack).Concludes s) (i2cReceiveByte s ack) :=
  .whenSynced (.next (.flush ⟨_, _, _, _, _, s.receiveCore_eq_released ack⟩ fun _ _ => ⟨_, _, rfl, nofun⟩))

theorem spiConfigure_concludes (cfg : SpiConfig) : Leaves (r.Concludes s) (spiConfigure s cfg) := by
  refine .whenSynced ?_
  split
  · exact .next (.raise rfl)
  · refine .next (.reply ?_ nofun)
    rw [State.emitLow_eq]
    rfl

/-- A transfer has chip-select at its idle level when it flushes (R219). -/
theorem spiTransfer_onlyBuffers {cfg : SpiConfig} (hr : r.lowWritten s = s.low.deselected s.spiCfg)
    (hcfg : s.spiCfg = some cfg) (c : Encoded) :
    State.OnlyBuffers { s with low := r.lowWritten s } (s.spiTransfer cfg c) := by
  have hlow : r.lowWritten s = s.low.deselected (some cfg) := by rw [hr, hcfg]
  rw [hlow]
  exact ⟨_, _, _, _, _, s.spiTransfer_eq cfg c⟩

theorem spiWrite_concludes (bytes : List Byte) : Leaves ((Request.spiWrite bytes).Concludes s) (spiWrite s bytes) := by
  refine .whenSynced fun t h => ?_
  obtain ⟨cfg, hcfg, h⟩ := whenConfigured_next h
  obtain ⟨i, hi, -⟩ := encoderOf_spiWriteCommand cfg.mode bytes
  cases hc : spiWriteCommand cfg.mode bytes with
  | error e =>
    rw [hc] at h hi
    cases h
    exact .raise (fatal_of_encoderOf_error hi)
  | ok c =>
    rw [hc] at h
    cases h
    exact .flush (spiTransfer_onlyBuffers rfl hcfg c) fun _ u => ⟨u.fsm, _, rfl, nofun⟩

theorem spiReadWrite_concludes (bytes : List Byte) :
    Leaves ((Request.spiReadWrite bytes).Concludes s) (spiReadWrite s bytes) := by
  refine .whenSynced fun t h => ?_
  obtain ⟨cfg, hcfg, h⟩ := whenConfigured_next h
  obtain ⟨i, hi, -⟩ := encoderOf_spiReadWriteCommand cfg.mode bytes
  cases hc : spiReadWriteCommand cfg.mode bytes with
  | error e =>
    rw [hc] at h hi
    cases h
    exact .raise (fatal_of_encoderOf_error hi)
  | ok c =>
    rw [hc] at h
    cases h
    exact .flush (spiTransfer_onlyBuffers rfl hcfg c) fun _ u => ⟨u.fsm, _, rfl, nofun⟩

end Personality

/-! ### Every request -/

/-- What every request can have left when it ends, by the error it returns. -/
theorem perform_concludes (r : Request) (s : State) : Leaves (r.Concludes s) (perform r s) := by
  cases r with
  | setBit p _ | unsetBit p _ | toggleBit p _ => exact .whenInRange (.raise rfl) (updatePin_concludes p _)
  | isSet _ _ => exact .whenInRange (.raise rfl) (.next (.reply rfl nofun))
  | mask p bits => exact pinMask_concludes p bits
  | fromByte p v => exact updatePin_concludes p v
  | toByte _ => exact .next (.reply rfl nofun)
  | pinWrite _ => exact .whenSynced (.next (.reply rfl nofun))
  | pinRead _ => exact .whenSynced (.next (.flush ⟨_, _, _, _, _, rfl⟩ fun _ u => ⟨u.fsm, _, rfl, nofun⟩))
  | wire i => exact exec_concludes s i
  | encodeOnly i => exact encodeOp_concludes i
  | enqueue bytes expected => exact enqueueRaw_concludes bytes expected
  | flush => exact .whenSynced (.next (.flush ⟨_, _, _, _, _, rfl⟩ fun _ u => ⟨u.fsm, _, rfl, nofun⟩))
  | syncHandshake => exact syncHandshake_concludes s
  | i2cStart => exact i2cStart_concludes
  | i2cStop => exact i2cStop_concludes
  | i2cSendDeviceAddrAndCheckAck _ _ | i2cSendByteAndCheckAck _ => exact .whenSynced (sendOne_concludes rfl _ _)
  | i2cSendBytes bytes => exact i2cSendBytes_concludes bytes
  | i2cReceiveByte ack => exact i2cReceiveByte_concludes ack
  | spiConfigure cfg => exact spiConfigure_concludes cfg
  | spiWrite bytes => exact spiWrite_concludes bytes
  | spiReadWrite bytes => exact spiReadWrite_concludes bytes
  | bringUp c => exact bringUpOp_concludes s c

/-- The error a log ends with is the one that was returned. -/
theorem OpError.eq_of_returned {results : List OpResult} {e e' : OpError}
    (h : results ++ [.error e'] = results ++ [.error e]) : e' = e := by
  simpa using h

/-! ## The obligations -/

/-- Settles O50: of the ways a request ends (`perform_concludes`) only the third returns a fatal error. -/
theorem fatalErrorsLeaveTheFatalState : Obligations.FatalErrorsLeaveTheFatalState := by
  intro r s t e f h hres hf
  cases perform_concludes r s t h with
  | noError hne => exact absurd hres (hne e)
  | argumentError he =>
    cases OpError.eq_of_returned hres
    cases he.symm.trans hf
  | fatalError he hu hlow =>
    obtain ⟨_, _, _, _, _, rfl⟩ := hu
    cases OpError.eq_of_returned hres
    cases he.symm.trans hf
    exact ⟨rfl, rfl, rfl, rfl, rfl, rfl, rfl, rfl, hlow, rfl, rfl, rfl, rfl⟩

/-- Settles O49: of the ways a request ends (`perform_concludes`) only the second returns an argument error. -/
theorem argumentErrorsChangeNothing : Obligations.ArgumentErrorsChangeNothing := by
  intro r s t e h hres hf
  cases perform_concludes r s t h with
  | noError hne => exact absurd hres (hne e)
  | argumentError _ => rw [OpError.eq_of_returned hres]
  | fatalError he hu _ =>
    obtain ⟨_, _, _, _, _, rfl⟩ := hu
    cases OpError.eq_of_returned hres
    cases he.symm.trans hf

/-- Settles O51: every other request begins with the check of `SYNC`, a probe byte after that of its round. -/
theorem unsyncedRequestsAreRefused : Obligations.UnsyncedRequestsAreRefused := by
  intro r s hs hh hpin hsync hbring
  cases r with
  | setBit _ _ | unsetBit _ _ | toggleBit _ _ | isSet _ _ | mask _ _ | fromByte _ _ | toByte _ => cases hpin
  | syncHandshake => exact absurd rfl hsync
  | bringUp _ => cases hbring
  | wire i => exact exec_unsynced hs hh i
  | _ => exact whenSynced_unsynced hs _

/-- Settles O60: the call is answered by the first answer, which says whether it is taken. -/
theorem bringUpFailureIsATransportError : Obligations.BringUpFailureIsATransportError := by
  intro s c a rest ha
  rw [perform, bringUpOp, State.transportBringUp, State.answer_of_answers ha, State.afterCall_of_answers ha]
  refine ⟨fun hok => ?_, fun hok => ?_⟩
  · rw [if_pos hok]
    rfl
  · rw [if_neg (ne_true_of_eq_false hok)]
    rfl

end Sys2Proof.Machine

/-! PROOFS. The serial clock (70_reset_and_hazards.md, R280): the formula as a function of the divisor, the base that the
capability and the shadow select, and the frequency where both are known. -/

namespace Sys2Proof.Machine

/-! ## The formula -/

theorem clockHz_zero (base : Nat) : clockHz base 0#16 = (base : Rat) / 2 := by
  rw [clockHz, BitVec.toNat_ofNat, Nat.zero_mod, Nat.cast_zero, add_zero, one_mul]

/-- A larger divisor makes the denominator larger, and the base is not negative. -/
theorem clockHz_le_of_divisor_le (base : Nat) {d d' : BitVec 16} (hd : d.toNat ≤ d'.toNat) :
    clockHz base d' ≤ clockHz base d := by
  unfold clockHz
  gcongr

/-! ## The base -/

theorem baseClockHz_of_no_prescaler {cap : Capabilities} (hcap : cap.hasClockDivideBy5 = false) (div5 : Option Bool) :
    baseClockHz cap div5 = some 12000000 := by
  unfold baseClockHz
  rw [if_neg (ne_true_of_eq_false hcap)]

/-- On a chip with the prescaler the base is known exactly when the prescaler's state is. -/
theorem baseClockHz_of_prescaler {cap : Capabilities} (hcap : cap.hasClockDivideBy5 = true) (div5 : Option Bool) :
    baseClockHz cap div5 = div5.map fun enabled => if enabled then 12000000 else 60000000 := by
  unfold baseClockHz
  rw [if_pos hcap]
  match div5 with
  | none | some false | some true => rfl

/-! ## The frequency of an instance -/

theorem State.frequencyHz_of_base {s : State} {d : BitVec 16} {base : Nat} (hd : s.cfg.clkdiv = some d)
    (hbase : baseClockHz s.params.cap s.cfg.div5 = some base) : s.frequencyHz = some (clockHz base d) := by
  rw [State.frequencyHz, hd, hbase]

theorem State.frequencyHz_of_unknown_base {s : State} (hbase : baseClockHz s.params.cap s.cfg.div5 = none) :
    s.frequencyHz = none := by
  rw [State.frequencyHz, hbase]
  cases s.cfg.clkdiv <;> rfl

theorem State.frequencyHz_of_unknown_divisor {s : State} (hd : s.cfg.clkdiv = none) : s.frequencyHz = none := by
  rw [State.frequencyHz, hd]

/-! ## The obligation -/

/-- Settles O59: the formula is `clockHz` at the base that `baseClockHz` selects, and an unknown base or divisor leaves no
frequency. -/
theorem clockFrequencyFollowsTheFormula : Obligations.ClockFrequencyFollowsTheFormula := by
  refine ⟨?_, ?_, fun base _ _ hd => clockHz_le_of_divisor_le base hd, fun s d hd => ⟨fun hcap => ?_, fun hcap => ?_⟩,
    fun _ hd => State.frequencyHz_of_unknown_divisor hd⟩
  · rw [clockHz_zero]
    norm_num
  · rw [clockHz_zero]
    norm_num
  · exact State.frequencyHz_of_base hd (baseClockHz_of_no_prescaler hcap _)
  · have hbase := baseClockHz_of_prescaler hcap s.cfg.div5
    refine ⟨fun h5 => ?_, fun h5 => ?_, fun h5 => ?_⟩
    · exact State.frequencyHz_of_base hd (by rw [hbase, h5]; rfl)
    · exact State.frequencyHz_of_base hd (by rw [hbase, h5]; rfl)
    · exact State.frequencyHz_of_unknown_base (by rw [hbase, h5]; rfl)

end Sys2Proof.Machine
